-- ==== Sys2Proof/Word.lean ====
section
/-! DEFINITION. The word types of CH8CORE: every value is unsigned, and its width is its type (R5, R8, R9). -/

namespace Sys2Proof

/-- A general register, a timer or a RAM byte: 8 bits (R14, R21, R35). -/
abbrev Byte := BitVec 8

/-- PC, I, SP, a stack entry or a RAM address: 12 bits, so that every sum wraps mod 4096 (R17 to R20, R36). -/
abbrev Addr := BitVec 12

/-- An instruction word: 16 bits (R48). -/
abbrev Opcode := BitVec 16

/-- A 4-bit field of an instruction word (R49). -/
abbrev Nibble := BitVec 4

/-- A register selector `x` or `y`: 4 bits, so it always lies in 0..15 (R14). -/
abbrev Reg := BitVec 4

/-- The PRNG seed and the clock rate: 32 bits (R28, R29). -/
abbrev Word32 := BitVec 32

/-- VF, the register that is also the flag output (R15). -/
abbrev VF : Reg := 0xF#4

/-- `b2u(c)` of R9: 1 if the condition holds and 0 otherwise, as a byte. -/
def b2u (c : Bool) : Byte := if c then 1#8 else 0#8

end Sys2Proof
end

