-- ==== Sys2Proof/Config.lean ====
section
/-! DEFINITION. What is fixed for the machine: the model parameters of R7, each with every value R7 allows. The
constants of R5 (64 columns, 32 rows, 3584 program bytes, 16 stack entries; log entry 8) are widths of types and numerals. The default VALUES of the parameters stand in Machine/Defaults.lean. -/

namespace Sys2Proof

/-- The 80 font bytes (R32): glyph d at 5d to 5d + 4. -/
abbrev Font := Vector Byte 80

/-- `P_DRAW_ADDR`: how Dxyn brings a pixel position into range (R110). -/
inductive DrawAddr where
  | coordinate
  | linear
deriving DecidableEq, Repr

/-- `P_VF_ORDER`: the order of operand reads and of the VF write when VF is also an operand (R88). -/
inductive VfOrder where
  | sequential
  | snapshot
deriving DecidableEq, Repr

/-- `P_FAMILY0_MATCH`: how family 0 selects CLS and RET (R53). -/
inductive Family0Match where
  | fullWord
  | lowByte
deriving DecidableEq, Repr

/-- `P_SKIP_REG_N`: whether 5xyN and 9xyN need N = 0 (R54). -/
inductive SkipRegN where
  | strict
  | ignoreN
deriving DecidableEq, Repr

/-- `P_FX0A`: the meaning of Fx0A (R115). -/
inductive Fx0A where
  | nop
  | waitKey
deriving DecidableEq, Repr

/-- `P_KEY_INDEX`: what Ex9E and ExA1 do when Vx is above 15 (R84). -/
inductive KeyIndexMode where
  | fault
  | lowNibble
deriving DecidableEq, Repr

/-- `P_PRNG_SHIFT`: which high bits of the seed form the random byte (R100). -/
inductive PrngShift where
  | shift16
  | shift24
deriving DecidableEq, Repr

/-- The model parameters of R7. "The model takes each as an argument": they stand in State as one field that no
instruction and no host operation writes (log entry 1). -/
structure Params where
  /-- `P_FONT` (R32). -/
  font : Font
  /-- `P_DEFAULT_CLOCK_RATE`, OPEN in the spec (R7). -/
  defaultClockRate : Word32
  /-- `P_DEFAULT_VSYNC`, OPEN in the spec (R7). -/
  defaultVsync : Bool
  /-- `P_WRAP`, the wrap flag (R25). -/
  wrap : Bool
  /-- `P_DRAW_ADDR` (R110). -/
  drawAddr : DrawAddr
  /-- `P_VF_ORDER` (R88). -/
  vfOrder : VfOrder
  /-- `P_FAMILY0_MATCH` (R53). -/
  family0 : Family0Match
  /-- `P_SKIP_REG_N` (R54). -/
  skipRegN : SkipRegN
  /-- `P_FX0A` (R115). -/
  fx0a : Fx0A
  /-- `P_KEY_INDEX` (R84). -/
  keyIndex : KeyIndexMode
  /-- `P_PRNG_SHIFT` (R100). -/
  prngShift : PrngShift
  /-- `P_SAVE_VERSION`, OPEN in the spec (R7, R134). -/
  saveVersion : Word32
deriving DecidableEq, Repr

end Sys2Proof
end

