-- ==== Sys2Proof/Machine/Defaults.lean ====
section
/-! DEFINITION. The default values of the model parameters (R7, R32). -/

namespace Sys2Proof.Machine

/-- The default of `P_FONT`: "the conventional CHIP-8 font" of R32, which the spec marks as taken from general
knowledge (log entry 3). One line a glyph, 0 to F. -/
def conventionalFont : Font :=
  #v[0xF0#8, 0x90#8, 0x90#8, 0x90#8, 0xF0#8,
     0x20#8, 0x60#8, 0x20#8, 0x20#8, 0x70#8,
     0xF0#8, 0x10#8, 0xF0#8, 0x80#8, 0xF0#8,
     0xF0#8, 0x10#8, 0xF0#8, 0x10#8, 0xF0#8,
     0x90#8, 0x90#8, 0xF0#8, 0x10#8, 0x10#8,
     0xF0#8, 0x80#8, 0xF0#8, 0x10#8, 0xF0#8,
     0xF0#8, 0x80#8, 0xF0#8, 0x90#8, 0xF0#8,
     0xF0#8, 0x10#8, 0x20#8, 0x40#8, 0x40#8,
     0xF0#8, 0x90#8, 0xF0#8, 0x90#8, 0xF0#8,
     0xF0#8, 0x90#8, 0xF0#8, 0x10#8, 0xF0#8,
     0xF0#8, 0x90#8, 0xF0#8, 0x90#8, 0x90#8,
     0xE0#8, 0x90#8, 0xE0#8, 0x90#8, 0xE0#8,
     0xF0#8, 0x80#8, 0x80#8, 0x80#8, 0xF0#8,
     0xE0#8, 0x90#8, 0x90#8, 0x90#8, 0xE0#8,
     0xF0#8, 0x80#8, 0xF0#8, 0x80#8, 0xF0#8,
     0xF0#8, 0x80#8, 0xF0#8, 0x80#8, 0x80#8]

/-- R7's defaults. The three parameters R7 leaves OPEN (`P_DEFAULT_CLOCK_RATE`, `P_DEFAULT_VSYNC`,
`P_SAVE_VERSION`) stand at 0, false and 0: DESIGN CHOICE, log entry 2. -/
def defaultParams : Params where
  font := conventionalFont
  defaultClockRate := 0#32
  defaultVsync := false
  wrap := false
  drawAddr := .coordinate
  vfOrder := .sequential
  family0 := .fullWord
  skipRegN := .strict
  fx0a := .nop
  keyIndex := .fault
  prngShift := .shift16
  saveVersion := 0#32

end Sys2Proof.Machine
end

