-- ==== Sys2Proof/Syntax.lean ====
section
/-! DEFINITION. The instructions: one constructor per row of spec/opcode_table.json, its fields the row's fields (R51). -/

namespace Sys2Proof

/-- The 35 instructions of the opcode table (R52, R57). `x` and `y` select registers, `kk` is an 8-bit immediate,
`nnn` a 12-bit address and `n` a 4-bit row count (R49, R50). -/
inductive Instr where
  /-- 00E0 CLS (R108). -/
  | cls
  /-- 00EE RET (R75). -/
  | ret
  /-- 0nnn SYS addr (R74). -/
  | sys (nnn : Addr)
  /-- 1nnn JP addr (R76). -/
  | jp (nnn : Addr)
  /-- 2nnn CALL addr (R77). -/
  | call (nnn : Addr)
  /-- 3xkk SE Vx, byte (R80). -/
  | seImm (x : Reg) (kk : Byte)
  /-- 4xkk SNE Vx, byte (R81). -/
  | sneImm (x : Reg) (kk : Byte)
  /-- 5xy0 SE Vx, Vy (R82). -/
  | seReg (x y : Reg)
  /-- 6xkk LD Vx, byte (R89). -/
  | ldImm (x : Reg) (kk : Byte)
  /-- 7xkk ADD Vx, byte (R90). -/
  | addImm (x : Reg) (kk : Byte)
  /-- 8xy0 LD Vx, Vy (R91). -/
  | ldReg (x y : Reg)
  /-- 8xy1 OR Vx, Vy (R92). -/
  | orReg (x y : Reg)
  /-- 8xy2 AND Vx, Vy (R93). -/
  | andReg (x y : Reg)
  /-- 8xy3 XOR Vx, Vy (R94). -/
  | xorReg (x y : Reg)
  /-- 8xy4 ADD Vx, Vy (R95). -/
  | addReg (x y : Reg)
  /-- 8xy5 SUB Vx, Vy (R96). -/
  | subReg (x y : Reg)
  /-- 8xy6 SHR Vx, Vy; y is encoded but not read (R97). -/
  | shr (x y : Reg)
  /-- 8xy7 SUBN Vx, Vy (R98). -/
  | subnReg (x y : Reg)
  /-- 8xyE SHL Vx, Vy; y is encoded but not read (R99). -/
  | shl (x y : Reg)
  /-- 9xy0 SNE Vx, Vy (R83). -/
  | sneReg (x y : Reg)
  /-- Annn LD I, addr (R102). -/
  | ldI (nnn : Addr)
  /-- Bnnn JP V0, addr (R78). -/
  | jpV0 (nnn : Addr)
  /-- Cxkk RND Vx, byte (R101). -/
  | rnd (x : Reg) (kk : Byte)
  /-- Dxyn DRW Vx, Vy, nibble (R109). -/
  | drw (x y : Reg) (n : Nibble)
  /-- Ex9E SKP Vx (R85). -/
  | skp (x : Reg)
  /-- ExA1 SKNP Vx (R86). -/
  | sknp (x : Reg)
  /-- Fx07 LD Vx, DT (R112). -/
  | ldVxDt (x : Reg)
  /-- Fx0A LD Vx, K (R115). -/
  | ldVxK (x : Reg)
  /-- Fx15 LD DT, Vx (R113). -/
  | ldDtVx (x : Reg)
  /-- Fx18 LD ST, Vx (R114). -/
  | ldStVx (x : Reg)
  /-- Fx1E ADD I, Vx (R103). -/
  | addI (x : Reg)
  /-- Fx29 LD F, Vx (R104). -/
  | ldF (x : Reg)
  /-- Fx33 LD B, Vx (R105). -/
  | ldB (x : Reg)
  /-- Fx55 LD [I], Vx (R106). -/
  | storeRegs (x : Reg)
  /-- Fx65 LD Vx, [I] (R107). -/
  | loadRegs (x : Reg)
deriving DecidableEq, Repr

end Sys2Proof
end

