-- ==== Sys2Proof/WellFormed.lean ====
section
/-! DEFINITION. When an instruction has an encoding. Every field's range is its type; the one check left is that a
SYS is not a word which family 0 selects as CLS or RET (R53, R74). -/

namespace Sys2Proof

/-- The address field `nnn` of a family-0 word that R53 selects as CLS. -/
def selectsCls (m : Family0Match) (nnn : Addr) : Bool :=
  match m with
  | .fullWord => nnn == 0x0E0#12
  | .lowByte => nnn.setWidth 8 == 0xE0#8

/-- The address field `nnn` of a family-0 word that R53 selects as RET. -/
def selectsRet (m : Family0Match) (nnn : Addr) : Bool :=
  match m with
  | .fullWord => nnn == 0x0EE#12
  | .lowByte => nnn.setWidth 8 == 0xEE#8

/-- An instruction is well formed when some word decodes to it: "every opcode except those that 30_encoding.md rule
R53 selects as CLS or RET" for SYS (R74), every field value for the others (R51, R52). -/
def wellFormed (p : Params) : Instr → Bool
  | .sys nnn => !selectsCls p.family0 nnn && !selectsRet p.family0 nnn
  | .cls | .ret | .jp _ | .call _ | .seImm _ _ | .sneImm _ _ | .seReg _ _ | .ldImm _ _ | .addImm _ _ | .ldReg _ _
  | .orReg _ _ | .andReg _ _ | .xorReg _ _ | .addReg _ _ | .subReg _ _ | .shr _ _ | .subnReg _ _ | .shl _ _
  | .sneReg _ _ | .ldI _ | .jpV0 _ | .rnd _ _ | .drw _ _ _ | .skp _ | .sknp _ | .ldVxDt _ | .ldVxK _ | .ldDtVx _
  | .ldStVx _ | .addI _ | .ldF _ | .ldB _ | .storeRegs _ | .loadRegs _ => true

end Sys2Proof
end

