-- ==== Sys2Proof/Decode.lean ====
section
/-! DEFINITION. Decoding (R48 to R56): the fields of a word, the dispatch on its top four bits, the no-op encodings
rejected by name; then the encoder, written from the same patterns (R51). -/

namespace Sys2Proof

/-! ## The fields of a word (R49) -/

/-- `op[15:12]`, the family. -/
def opFamily (w : Opcode) : Nibble := w.extractLsb' 12 4

/-- `x = op[11:8]`. -/
def opX (w : Opcode) : Reg := w.extractLsb' 8 4

/-- `y = op[7:4]`. -/
def opY (w : Opcode) : Reg := w.extractLsb' 4 4

/-- `n = op[3:0]`. -/
def opN (w : Opcode) : Nibble := w.extractLsb' 0 4

/-- `kk = op[7:0]`. -/
def opKK (w : Opcode) : Byte := w.extractLsb' 0 8

/-- `nnn = op[11:0]`. -/
def opNNN (w : Opcode) : Addr := w.extractLsb' 0 12

/-! ## The decoder (R52 to R56) -/

/-- The no-op encodings of R56, named by the family that rejects them. Such a word is no row of the opcode table; its
cycle "still consume[s] the fetch/PC-advance" and does nothing else (log entry 7). -/
inductive NoOpEncoding where
  /-- 5xyN with N != 0 under `P_SKIP_REG_N = strict` (R54). -/
  | family5
  /-- 8xyN with N in 8, 9, A, B, C, D, F. -/
  | family8
  /-- 9xyN with N != 0 under `P_SKIP_REG_N = strict` (R54). -/
  | family9
  /-- Exkk with kk neither 9E nor A1. -/
  | familyE
  /-- Fxkk with kk of no row. -/
  | familyF
deriving DecidableEq, Repr

/-- R53: the family-0 words that are CLS or RET, `full` being the whole word and `low` its low byte. -/
def family0Matches (m : Family0Match) (full : Opcode) (low : Byte) (w : Opcode) : Bool :=
  match m with
  | .fullWord => w == full
  | .lowByte => opKK w == low

/-- Family 0 (R53): CLS and RET first, every other word is SYS. -/
def decodeFamily0 (m : Family0Match) (w : Opcode) : Instr :=
  if family0Matches m 0x00E0#16 0xE0#8 w then .cls
  else if family0Matches m 0x00EE#16 0xEE#8 w then .ret
  else .sys (opNNN w)

/-- R54: whether the `n` of a 5xyN or 9xyN is taken as the row's 0. -/
def skipRegNMatches (m : SkipRegN) (n : Nibble) : Bool :=
  match m with
  | .strict => n == 0x0#4
  | .ignoreN => true

/-- Family 8, on `n` (R52). -/
def decodeFamily8 (w : Opcode) : Except NoOpEncoding Instr :=
  match opN w with
  | 0x0#4 => .ok (.ldReg (opX w) (opY w))
  | 0x1#4 => .ok (.orReg (opX w) (opY w))
  | 0x2#4 => .ok (.andReg (opX w) (opY w))
  | 0x3#4 => .ok (.xorReg (opX w) (opY w))
  | 0x4#4 => .ok (.addReg (opX w) (opY w))
  | 0x5#4 => .ok (.subReg (opX w) (opY w))
  | 0x6#4 => .ok (.shr (opX w) (opY w))
  | 0x7#4 => .ok (.subnReg (opX w) (opY w))
  | 0xE#4 => .ok (.shl (opX w) (opY w))
  | _ => .error .family8

/-- Family E, on `kk` (R52). -/
def decodeFamilyE (w : Opcode) : Except NoOpEncoding Instr :=
  match opKK w with
  | 0x9E#8 => .ok (.skp (opX w))
  | 0xA1#8 => .ok (.sknp (opX w))
  | _ => .error .familyE

/-- Family F, on `kk` (R52, R55). -/
def decodeFamilyF (w : Opcode) : Except NoOpEncoding Instr :=
  match opKK w with
  | 0x07#8 => .ok (.ldVxDt (opX w))
  | 0x0A#8 => .ok (.ldVxK (opX w))
  | 0x15#8 => .ok (.ldDtVx (opX w))
  | 0x18#8 => .ok (.ldStVx (opX w))
  | 0x1E#8 => .ok (.addI (opX w))
  | 0x29#8 => .ok (.ldF (opX w))
  | 0x33#8 => .ok (.ldB (opX w))
  | 0x55#8 => .ok (.storeRegs (opX w))
  | 0x65#8 => .ok (.loadRegs (opX w))
  | _ => .error .familyF

/-- The dispatch map (R52): "dispatches on the opcode's top 4 bits to one of 16 instruction families". The last arm
is family F, the one value of the nibble the arms before it leave. -/
def decodeWord (p : Params) (w : Opcode) : Except NoOpEncoding Instr :=
  match opFamily w with
  | 0x0#4 => .ok (decodeFamily0 p.family0 w)
  | 0x1#4 => .ok (.jp (opNNN w))
  | 0x2#4 => .ok (.call (opNNN w))
  | 0x3#4 => .ok (.seImm (opX w) (opKK w))
  | 0x4#4 => .ok (.sneImm (opX w) (opKK w))
  | 0x5#4 => if skipRegNMatches p.skipRegN (opN w) then .ok (.seReg (opX w) (opY w)) else .error .family5
  | 0x6#4 => .ok (.ldImm (opX w) (opKK w))
  | 0x7#4 => .ok (.addImm (opX w) (opKK w))
  | 0x8#4 => decodeFamily8 w
  | 0x9#4 => if skipRegNMatches p.skipRegN (opN w) then .ok (.sneReg (opX w) (opY w)) else .error .family9
  | 0xA#4 => .ok (.ldI (opNNN w))
  | 0xB#4 => .ok (.jpV0 (opNNN w))
  | 0xC#4 => .ok (.rnd (opX w) (opKK w))
  | 0xD#4 => .ok (.drw (opX w) (opY w) (opN w))
  | 0xE#4 => decodeFamilyE w
  | _ => decodeFamilyF w

/-- Why a list of bytes does not begin with an instruction. -/
inductive DecodeError where
  /-- Fewer than the two bytes of a word (R48). -/
  | truncated
  /-- A no-op encoding (R56). -/
  | noOp (e : NoOpEncoding)
deriving DecidableEq, Repr

/-- The word of two bytes, the byte at the lower address being the high one (R38). -/
def wordOfBytes (hi lo : Byte) : Opcode := hi ++ lo

/-- The decoder on bytes as they stand in memory: big-endian words of two bytes (R38, R48). It answers the
instruction and the bytes after it. -/
def decodeBytes (p : Params) : List Byte → Except DecodeError (Instr × List Byte)
  | hi :: lo :: rest =>
    match decodeWord p (wordOfBytes hi lo) with
    | .ok i => .ok (i, rest)
    | .error e => .error (.noOp e)
  | _ => .error .truncated

/-! ## The encoder (R51) -/

/-- The word of format `NNN`: the family and `nnn`. -/
def encodeNNN (f : Nibble) (nnn : Addr) : Opcode := f ++ nnn

/-- The word of format `XKK`, and of format `XS` where `kk` is fixed: the family, `x` and `kk`. -/
def encodeXKK (f : Nibble) (x : Reg) (kk : Byte) : Opcode := f ++ x ++ kk

/-- The word of format `XYN`, and of format `XYS` where `n` is fixed: the family, `x`, `y` and `n`. -/
def encodeXYN (f : Nibble) (x y : Reg) (n : Nibble) : Opcode := f ++ x ++ y ++ n

/-- The word of an instruction (R51, the patterns of spec/opcode_table.json). -/
def encode : Instr → Opcode
  | .cls => 0x00E0#16
  | .ret => 0x00EE#16
  | .sys nnn => encodeNNN 0x0#4 nnn
  | .jp nnn => encodeNNN 0x1#4 nnn
  | .call nnn => encodeNNN 0x2#4 nnn
  | .seImm x kk => encodeXKK 0x3#4 x kk
  | .sneImm x kk => encodeXKK 0x4#4 x kk
  | .seReg x y => encodeXYN 0x5#4 x y 0x0#4
  | .ldImm x kk => encodeXKK 0x6#4 x kk
  | .addImm x kk => encodeXKK 0x7#4 x kk
  | .ldReg x y => encodeXYN 0x8#4 x y 0x0#4
  | .orReg x y => encodeXYN 0x8#4 x y 0x1#4
  | .andReg x y => encodeXYN 0x8#4 x y 0x2#4
  | .xorReg x y => encodeXYN 0x8#4 x y 0x3#4
  | .addReg x y => encodeXYN 0x8#4 x y 0x4#4
  | .subReg x y => encodeXYN 0x8#4 x y 0x5#4
  | .shr x y => encodeXYN 0x8#4 x y 0x6#4
  | .subnReg x y => encodeXYN 0x8#4 x y 0x7#4
  | .shl x y => encodeXYN 0x8#4 x y 0xE#4
  | .sneReg x y => encodeXYN 0x9#4 x y 0x0#4
  | .ldI nnn => encodeNNN 0xA#4 nnn
  | .jpV0 nnn => encodeNNN 0xB#4 nnn
  | .rnd x kk => encodeXKK 0xC#4 x kk
  | .drw x y n => encodeXYN 0xD#4 x y n
  | .skp x => encodeXKK 0xE#4 x 0x9E#8
  | .sknp x => encodeXKK 0xE#4 x 0xA1#8
  | .ldVxDt x => encodeXKK 0xF#4 x 0x07#8
  | .ldVxK x => encodeXKK 0xF#4 x 0x0A#8
  | .ldDtVx x => encodeXKK 0xF#4 x 0x15#8
  | .ldStVx x => encodeXKK 0xF#4 x 0x18#8
  | .addI x => encodeXKK 0xF#4 x 0x1E#8
  | .ldF x => encodeXKK 0xF#4 x 0x29#8
  | .ldB x => encodeXKK 0xF#4 x 0x33#8
  | .storeRegs x => encodeXKK 0xF#4 x 0x55#8
  | .loadRegs x => encodeXKK 0xF#4 x 0x65#8

/-- The high byte of a word, which stands at the lower address (R38). -/
def highByte (w : Opcode) : Byte := w.extractLsb' 8 8

/-- The low byte of a word, which stands at the higher address (R38). -/
def lowByte (w : Opcode) : Byte := w.extractLsb' 0 8

/-- The bytes of an instruction as they stand in memory (R38). -/
def encodeBytes (i : Instr) : List Byte := [highByte (encode i), lowByte (encode i)]

/-! ## The host's question -/

/-- The word of `nbits` bits that `w` numbers, bit 0 the least significant; the bits above `nbits` are 0. -/
def tableWord (nbits w : Nat) : Opcode := BitVec.ofNat 16 (w % 2 ^ nbits)

/-- The instruction the decoder reads from the word `w` of `nbits` bits, laid out big-endian, under the default
parameters. -/
def decodeTableWord (nbits w : Nat) : Option Instr :=
  match decodeBytes Machine.defaultParams [highByte (tableWord nbits w), lowByte (tableWord nbits w)] with
  | .ok (i, _) => some i
  | .error _ => none

end Sys2Proof
end

