-- ==== Sys2Proof/Machine/State.lean ====
section
/-! DEFINITION. Everything the spec gives the machine (R14 to R31), as plain data; why a step can stop; and the state
after reset (R33, R141). -/

namespace Sys2Proof.Machine

/-- The RAM (R35): the (address, byte) pairs that differ from the reset contents (`unlistedByte` in Machine/Ops.lean),
addresses strictly rising. -/
abbrev Memory := List Host.Cell

/-- The framebuffer (R22): row r is entry r and column c its bit c, so pixel `FB[r * 64 + c]` is bit c of row r
(log entry 9). -/
abbrev Framebuffer := Vector (BitVec 64) 32

/-- `fault_code` (R30, R116): a two-bit field all of whose values are named. -/
inductive FaultCode where
  /-- 0: no fault. -/
  | none
  /-- 1: STACK_OVERFLOW. -/
  | stackOverflow
  /-- 2: STACK_UNDERFLOW. -/
  | stackUnderflow
  /-- 3: KEY_INDEX. -/
  | keyIndex
deriving DecidableEq, Repr

/-- The state of CH8CORE. -/
structure State where
  /-- V0 to VF (R14, R15). -/
  v : Vector Byte 16
  /-- The index register I (R18). -/
  i : Addr
  /-- The program counter (R17); while an instruction executes it holds that instruction's address plus 2. -/
  pc : Addr
  /-- The stack pointer: the number of entries in use, legal from 0 to 16 (R20). -/
  sp : Addr
  /-- The delay timer (R21). -/
  dt : Byte
  /-- The sound timer (R21). -/
  st : Byte
  /-- The call stack's 16 return addresses (R19). -/
  stack : Vector Addr 16
  /-- The RAM (R35, R41). -/
  mem : Memory
  /-- The framebuffer (R22). -/
  fb : Framebuffer
  /-- `draw_pending` (R24). -/
  drawPending : Bool
  /-- The 16 key states, true meaning pressed (R26). -/
  keys : Vector Bool 16
  /-- The decode scratch: the most recently fetched opcode, whose fields are functions of it (R27). -/
  op : Opcode
  /-- The PRNG seed (R28). -/
  seed : Word32
  /-- `clock_rate`: the most cycles a tick runs (R29). -/
  clockRate : Word32
  /-- `vsync` (R29). -/
  vsync : Bool
  /-- `halted` (R30): the core executes no instruction. -/
  halted : Bool
  /-- `fault_code` (R30). -/
  faultCode : FaultCode
  /-- `fault_pc` (R30): the address of the instruction that faulted. -/
  faultPc : Addr
  /-- `sound_latch` (R31): the sound-active predicate last reported. -/
  soundLatch : Bool
  /-- The model parameters (R7), the wrap flag of R25 among them; nothing writes them (log entry 1). -/
  params : Params
deriving DecidableEq, Repr

/-- What stops the machine. NO INSTRUCTION AND NO STEP RAISES ONE: the three faults of R116 are next states with
`halted` set (R117). -/
inductive Fault where
  /-- Raised by the host operation LoadProgram when its length is legal and its buffer holds fewer bytes than its
  length: the spec gives such a call no effect (log entry 11). Safe. -/
  | programBufferTooShort
deriving DecidableEq, Repr

/-- What the model gives no meaning. No instruction and no step answers one. -/
inductive Refusal where
  /-- An instruction without a meaning, by its mnemonic: no arm of `exec` answers it. Safe. -/
  | notModelled (mnemonic : String)
  /-- Answered by the host operation GetPixel with x above 63 or y above 31: "such a call is refused: the model gives
  it no result" (R128). Safe. -/
  | getPixelOutOfRange
deriving DecidableEq, Repr

/-- The outcome of an instruction's meaning and of a step. -/
abbrev Result := Host.Outcome State Fault Refusal

/-- The state after `Initialize()` under the parameters `p` (R33, R141): all zero but the font, which is what memory
reads as where nothing is listed, PC, and the configuration's defaults. -/
def State.initial (p : Params) : State where
  v := Vector.replicate 16 0#8
  i := 0#12
  pc := 0x200#12
  sp := 0#12
  dt := 0#8
  st := 0#8
  stack := Vector.replicate 16 0#12
  mem := []
  fb := Vector.replicate 32 0#64
  drawPending := false
  keys := Vector.replicate 16 false
  op := 0#16
  seed := 0#32
  clockRate := p.defaultClockRate
  vsync := p.defaultVsync
  halted := false
  faultCode := .none
  faultPc := 0#12
  soundLatch := false
  params := p

/-- The machine right after reset: `Initialize()` under the default parameters (R7, R33, R144). -/
def State.reset : State := State.initial defaultParams

end Sys2Proof.Machine
end

