-- ==== Sys2Proof/Machine/Ops.lean ====
section
/-! DEFINITION. The named operations over memory, registers, stack, framebuffer and keys; the skip and the fetch;
taking a fault (R117) and leaving the fault state (R120); the random byte (R100). -/

namespace Sys2Proof.Machine

/-! ## RAM (R35 to R41) -/

/-- What an address nothing is listed at reads as: the reset contents of R33, `P_FONT` at 0x000..0x04F and 0 above. -/
def unlistedByte (font : Font) (a : Nat) : Byte :=
  if h : a < 80 then font[a] else 0#8

/-- `MemRead(a, 1)` (R35). -/
def Memory.read (font : Font) : Memory → Nat → Byte
  | [], a => unlistedByte font a
  | (k, b) :: rest, a => if k = a then b else Memory.read font rest a

/-- `MemWrite(a, 1, b)` (R35), in the canonical form: the pair goes to its place, and goes away when `b` is what the
address reads as unlisted. -/
def Memory.write (font : Font) : Memory → Nat → Byte → Memory
  | [], a, b => if b = unlistedByte font a then [] else [(a, b)]
  | (k, c) :: rest, a, b =>
    if k < a then (k, c) :: Memory.write font rest a b
    else
      let tail := if k = a then rest else (k, c) :: rest
      if b = unlistedByte font a then tail else (a, b) :: tail

/-- The canonical form from address `lo` on: addresses strictly rising inside the RAM, and no entry equal to what its
address reads as unlisted. -/
def Memory.wfFrom (font : Font) : Nat → Memory → Bool
  | _, [] => true
  | lo, (a, b) :: rest =>
    decide (lo ≤ a) && decide (a < 4096) && (b != unlistedByte font a) && Memory.wfFrom font (a + 1) rest

/-- The canonical form of a memory, under which equal memories are equal lists. -/
def Memory.wf (font : Font) (m : Memory) : Bool := Memory.wfFrom font 0 m

/-- The memory with every address from `hi` on at its reset contents. -/
def Memory.below (hi : Nat) (m : Memory) : Memory := m.filter fun c => decide (c.1 < hi)

/-- The canonical pairs of a run of bytes that starts at address `a`. -/
def Memory.image (font : Font) : Nat → List Byte → Memory
  | _, [] => []
  | a, b :: rest =>
    if b = unlistedByte font a then Memory.image font (a + 1) rest else (a, b) :: Memory.image font (a + 1) rest

/-- `MemRead(a, 1)` on the state (R35): every address an instruction forms is 12 bits wide (R36), so no read is
refused. -/
def State.readByte (s : State) (a : Addr) : Byte := Memory.read s.params.font s.mem a.toNat

/-- `MemWrite(a, 1, b)` on the state (R35, R37): the whole RAM is writable. -/
def State.writeByte (s : State) (a : Addr) (b : Byte) : State :=
  { s with mem := Memory.write s.params.font s.mem a.toNat b }

/-! ## Registers, stack, keys -/

/-- `V[x]` (R14). -/
def State.readV (s : State) (x : Reg) : Byte := s.v[x.toNat]'x.isLt

/-- `V[x] <- b` (R14). -/
def State.writeV (s : State) (x : Reg) (b : Byte) : State := { s with v := s.v.set x.toNat b x.isLt }

/-- `I <- a` (R18). -/
def State.setI (s : State) (a : Addr) : State := { s with i := a }

/-- `pc <- a` (R10, R17). -/
def State.setPc (s : State) (a : Addr) : State := { s with pc := a }

/-- `DT <- b` (R21). -/
def State.setDt (s : State) (b : Byte) : State := { s with dt := b }

/-- `ST <- b` (R21). -/
def State.setSt (s : State) (b : Byte) : State := { s with st := b }

/-- `Stack[k]` (R19); every index CALL and RET use lies in 0..15 (R20). -/
def State.readStack (s : State) (k : Nat) : Addr := s.stack[k]?.getD 0#12

/-- CALL's push: `Stack[SP] <- a`, `SP <- SP + 1` (R20, R77). -/
def State.push (s : State) (a : Addr) : State :=
  { s with stack := s.stack.setIfInBounds s.sp.toNat a, sp := s.sp + 1#12 }

/-- RET's pop: `SP <- SP - 1`, `pc <- Stack[SP]`; the entry keeps its value (R20, R75). -/
def State.popPc (s : State) : State :=
  { s with sp := s.sp - 1#12, pc := s.readStack (s.sp - 1#12).toNat }

/-- `Key[k]`, true meaning pressed (R26). -/
def State.key (s : State) (k : Nat) : Bool := s.keys[k]?.getD false

/-! ## Framebuffer (R22) -/

/-- `FB[t]`: row t / 64, column t % 64. -/
def Framebuffer.pixel (fb : Framebuffer) (t : Nat) : Bool := (fb[t / 64]?.getD 0#64).getLsbD (t % 64)

/-- `FB[t] <- FB[t] ^ 1`. -/
def Framebuffer.flip (fb : Framebuffer) (t : Nat) : Framebuffer :=
  fb.setIfInBounds (t / 64) (fb[t / 64]?.getD 0#64 ^^^ (1#64 <<< (t % 64)))

/-- The framebuffer with every pixel off. -/
def Framebuffer.clear : Framebuffer := Vector.replicate 32 0#64

/-- `FB[t]` on the state. -/
def State.pixel (s : State) (t : Nat) : Bool := Framebuffer.pixel s.fb t

/-- `FB[i] <- 0` for every i (R108). -/
def State.clearFb (s : State) : State := { s with fb := Framebuffer.clear }

/-- `draw_pending <- 1` (R24). -/
def State.markDraw (s : State) : State := { s with drawPending := true }

/-! ## Skip and fetch (R38, R60, R79) -/

/-- `skip`: `pc <- (PC + 2) mod 4096` (R79). -/
def State.skip (s : State) : State := s.setPc (s.pc + 2#12)

/-- Skip the next instruction if the condition holds (R79). -/
def State.skipIf (s : State) (c : Bool) : State := if c then s.skip else s

/-- The opcode at PC: "reads two consecutive bytes at `PC` big-endian", the second address mod 4096 (R38, R60). -/
def State.fetchWord (s : State) : Opcode := wordOfBytes (s.readByte s.pc) (s.readByte (s.pc + 1#12))

/-- The fetch (R60): `op` holds the opcode and PC is 2 further on. -/
def State.fetched (s : State) : State := { s with op := s.fetchWord, pc := s.pc + 2#12 }

/-! ## The fault state (R30, R117, R120) -/

/-- The value of the `fault_code` field (R30). -/
def FaultCode.toBits : FaultCode → BitVec 2
  | .none => 0#2
  | .stackOverflow => 1#2
  | .stackUnderflow => 2#2
  | .keyIndex => 3#2

/-- `raise Fault(code)` (R117): `halted`, `fault_code` and `fault_pc` are written, and nothing else. The address `a` of
the faulting instruction is PC - 2, since PC holds `(a + 2) mod 4096` from the fetch (R62, R117). -/
def State.raiseFault (s : State) (code : FaultCode) : State :=
  { s with halted := true, faultCode := code, faultPc := s.pc - 2#12 }

/-- Leaving the fault state (R120): the host operations that clear `halted` clear `fault_code` and `fault_pc` too. -/
def State.clearFault (s : State) : State :=
  { s with halted := false, faultCode := .none, faultPc := 0#12 }

/-! ## The random byte (R100) -/

/-- One advance of the seed: `(seed * 214013 + 2531011) mod 2^32`. The constants stand on the left, where unfolding
arithmetic on an unknown seed gets stuck at once. -/
def nextSeed (seed : Word32) : Word32 := 2531011#32 + 214013#32 * seed

/-- The number of bits `P_PRNG_SHIFT` names. -/
def PrngShift.amount : PrngShift → Nat
  | .shift16 => 16
  | .shift24 => 24

/-- `(seed >> P_PRNG_SHIFT) & 0xFF`. -/
def prngByte (sh : PrngShift) (seed : Word32) : Byte := (seed >>> PrngShift.amount sh).setWidth 8

/-- The state after one draw: the seed has advanced once. -/
def State.advanceSeed (s : State) : State := { s with seed := nextSeed s.seed }

/-! ## Placing a word where the next cycle fetches (the host's question) -/

/-- The word `w` stored at PC, big-endian, on a core that runs: what a cycle needs to fetch and run it (R38, R64; log
entry 10). -/
def State.placeWord (s : State) (w : Opcode) : State :=
  ((s.writeByte s.pc (highByte w)).writeByte (s.pc + 1#12) (lowByte w)).clearFault

end Sys2Proof.Machine
end

