-- ==== Sys2Proof/Machine/Flags.lean ====
section
/-! DEFINITION. The flags: what the flag-writing instructions compute for VF (`f(a, b)`) and for Vx (`r(a, b)`), and the
one operation that writes both in the order `P_VF_ORDER` names (R88, R95 to R99). -/

namespace Sys2Proof.Machine

/-- 8xy4's flag: `b2u(a + b > 255)` (R95). -/
def addFlag (a b : Byte) : Byte := b2u (decide (a.toNat + b.toNat > 255))

/-- 8xy4's result: `(a + b) mod 256` (R95). -/
def addResult (a b : Byte) : Byte := a + b

/-- 8xy5's flag: `b2u(a > b)` (R96). -/
def subFlag (a b : Byte) : Byte := b2u (decide (a.toNat > b.toNat))

/-- 8xy5's result: `(a - b) mod 256` (R96). -/
def subResult (a b : Byte) : Byte := a - b

/-- 8xy6's flag: `a & 1`; b is not read (R97). -/
def shrFlag (a _b : Byte) : Byte := a &&& 1#8

/-- 8xy6's result: `a >> 1`; b is not read (R97). -/
def shrResult (a _b : Byte) : Byte := a >>> 1

/-- 8xy7's flag: `b2u(b > a)` (R98). -/
def subnFlag (a b : Byte) : Byte := b2u (decide (b.toNat > a.toNat))

/-- 8xy7's result: `(b - a) mod 256` (R98). -/
def subnResult (a b : Byte) : Byte := b - a

/-- 8xyE's flag: `(a >> 7) & 1`; b is not read (R99). -/
def shlFlag (a _b : Byte) : Byte := (a >>> 7) &&& 1#8

/-- 8xyE's result: `(a << 1) mod 256`; b is not read (R99). -/
def shlResult (a _b : Byte) : Byte := a <<< 1

/-- The two writes of a flag-writing instruction in the order `P_VF_ORDER` names (R88). Under `sequential` the second
write reads Vx and Vy as the first left them. -/
def State.writeFlagged (s : State) (x y : Reg) (f r : Byte → Byte → Byte) : State :=
  match s.params.vfOrder with
  | .sequential =>
    let s' := s.writeV VF (f (s.readV x) (s.readV y))
    s'.writeV x (r (s'.readV x) (s'.readV y))
  | .snapshot => (s.writeV x (r (s.readV x) (s.readV y))).writeV VF (f (s.readV x) (s.readV y))

end Sys2Proof.Machine
end

