-- ==== Sys2Proof/Machine/Alu.lean ====
section
/-! DEFINITION. Register loads, arithmetic, logic, shifts and the random number (spec/43_alu.md). -/

namespace Sys2Proof.Machine

/-- 6xkk LD Vx, byte (R89). -/
def execLdImm (x : Reg) (kk : Byte) (s : State) : Result := .next (s.writeV x kk)

/-- 7xkk ADD Vx, byte: no flag (R90). -/
def execAddImm (x : Reg) (kk : Byte) (s : State) : Result := .next (s.writeV x (s.readV x + kk))

/-- 8xy0 LD Vx, Vy (R91). -/
def execLdReg (x y : Reg) (s : State) : Result := .next (s.writeV x (s.readV y))

/-- 8xy1 OR Vx, Vy: VF is not reset (R92). -/
def execOrReg (x y : Reg) (s : State) : Result := .next (s.writeV x (s.readV x ||| s.readV y))

/-- 8xy2 AND Vx, Vy: VF is not reset (R93). -/
def execAndReg (x y : Reg) (s : State) : Result := .next (s.writeV x (s.readV x &&& s.readV y))

/-- 8xy3 XOR Vx, Vy: VF is not reset (R94). -/
def execXorReg (x y : Reg) (s : State) : Result := .next (s.writeV x (s.readV x ^^^ s.readV y))

/-- 8xy4 ADD Vx, Vy (R88, R95). -/
def execAddReg (x y : Reg) (s : State) : Result := .next (s.writeFlagged x y addFlag addResult)

/-- 8xy5 SUB Vx, Vy (R88, R96). -/
def execSubReg (x y : Reg) (s : State) : Result := .next (s.writeFlagged x y subFlag subResult)

/-- 8xy6 SHR Vx: the shift is of Vx, y is not read (R88, R97). -/
def execShr (x y : Reg) (s : State) : Result := .next (s.writeFlagged x y shrFlag shrResult)

/-- 8xy7 SUBN Vx, Vy (R88, R98). -/
def execSubnReg (x y : Reg) (s : State) : Result := .next (s.writeFlagged x y subnFlag subnResult)

/-- 8xyE SHL Vx: the shift is of Vx, y is not read (R88, R99). -/
def execShl (x y : Reg) (s : State) : Result := .next (s.writeFlagged x y shlFlag shlResult)

/-- Cxkk RND Vx, byte: `V[x] <- PrngByte() & kk`, the seed advancing first (R100, R101). -/
def execRnd (x : Reg) (kk : Byte) (s : State) : Result :=
  .next (s.advanceSeed.writeV x (prngByte s.params.prngShift (nextSeed s.seed) &&& kk))

end Sys2Proof.Machine
end

