-- ==== Sys2Proof/Machine/Operands.lean ====
section
/-! DEFINITION. The operand forms: "I plus a small offset" and the block transfers over it (R36, R105 to R107), the
decimal digits (R105), the key index (R84) and the lowest pressed key (R115), the font address (R104). -/

namespace Sys2Proof.Machine

/-- The effective address of the k-th byte of an access that starts at I: `(I + k) mod 4096` (R36). -/
def State.memAddr (s : State) (k : Nat) : Addr := s.i + BitVec.ofNat 12 k

/-- The decimal digits of a byte: hundreds, tens, ones (R105). -/
def hundredsDigit (b : Byte) : Byte := BitVec.ofNat 8 (b.toNat / 100)

/-- See `hundredsDigit`. -/
def tensDigit (b : Byte) : Byte := BitVec.ofNat 8 (b.toNat / 10 % 10)

/-- See `hundredsDigit`. -/
def onesDigit (b : Byte) : Byte := BitVec.ofNat 8 (b.toNat % 10)

/-- The font address of a value: `(v * 5) mod 4096`, the value not reduced to its low nibble (R104). -/
def fontAddr (b : Byte) : Addr := BitVec.ofNat 12 (b.toNat * 5)

/-- One register to its byte of the block: `MemWrite((I + i) mod 4096, 1, V[i])` (R106). -/
def State.storeReg (s : State) (k : Nat) : State := s.writeByte (s.memAddr k) (s.readV (BitVec.ofNat 4 k))

/-- V0 to V(count - 1) to RAM from I on, in increasing order (R40, R106). -/
def State.storeBlock (s : State) (count : Nat) : State := (List.range count).foldl State.storeReg s

/-- One register from its byte of the block: `V[i] <- MemRead((I + i) mod 4096, 1)` (R107). -/
def State.loadReg (s : State) (k : Nat) : State := s.writeV (BitVec.ofNat 4 k) (s.readByte (s.memAddr k))

/-- V0 to V(count - 1) from RAM from I on, in increasing order (R40, R107). -/
def State.loadBlock (s : State) (count : Nat) : State := (List.range count).foldl State.loadReg s

/-- `KeyIndex(v)` (R84): the key a value names, or none where it raises KEY_INDEX. -/
def keyIndex (m : KeyIndexMode) (b : Byte) : Option Nat :=
  if b.toNat ≤ 15 then some b.toNat
  else
    match m with
    | .fault => none
    | .lowNibble => some (b &&& 0x0F#8).toNat

/-- The smallest k with `Key[k] = 1`, if some key is pressed (R115). -/
def State.lowestKey (s : State) : Option Nat := (List.range 16).find? s.key

end Sys2Proof.Machine
end

