-- ==== Sys2Proof/Machine/Display.lean ====
section
/-! DEFINITION. The display (spec/45_display.md): CLS, and DRW with its placing, its collision flag and its edge
policy. -/

namespace Sys2Proof.Machine

/-- 00E0 CLS: every pixel off, a draw pending (R108). -/
def execCls (s : State) : Result := .next s.clearFb.markDraw

/-- `Place(px, py)` (R110): the framebuffer index of an unbounded column and row, or none for SKIP. -/
def place (p : Params) (px py : Nat) : Option Nat :=
  match p.drawAddr with
  | .coordinate =>
    if p.wrap then some (py % 32 * 64 + px % 64)
    else if px ≥ 64 ∨ py ≥ 32 then none
    else some (py * 64 + px)
  | .linear =>
    if p.wrap then some ((py * 64 + px) % 2048)
    else if py * 64 + px ≥ 2048 then none
    else some (py * 64 + px)

/-- The two things DRW's loops change (R109): VF, `V[15]`, and the framebuffer. -/
structure Canvas where
  vf : Byte
  fb : Framebuffer
deriving DecidableEq, Repr

/-- `V[x]` while DRW's loops run on the state `s`: VF is the canvas's, every other register is `s`'s. -/
def Canvas.reg (c : Canvas) (s : State) (x : Reg) : Byte := if x = VF then c.vf else s.readV x

/-- The sprite's top-left column and row for one set bit (R109): under `snapshot` Vx and Vy as they were before the
instruction, under `sequential` as they are now, VF included. -/
def drawOrigin (s : State) (x y : Reg) (c : Canvas) : Nat × Nat :=
  match s.params.vfOrder with
  | .sequential => ((c.reg s x).toNat, (c.reg s y).toNat)
  | .snapshot => ((s.readV x).toNat, (s.readV y).toNat)

/-- One set sprite bit at framebuffer index `t`: `V[15] <- V[15] | FB[t]`, then `FB[t] <- FB[t] ^ 1` (R109). -/
def Canvas.drawPixel (c : Canvas) (t : Nat) : Canvas :=
  { vf := c.vf ||| b2u (Framebuffer.pixel c.fb t), fb := Framebuffer.flip c.fb t }

/-- The sprite's bit at a row and column: bit 7 is column 0, row r is the byte at `(I + r) mod 4096` (R109). -/
def State.spriteBit (s : State) (row col : Nat) : Bool := (s.readByte (s.memAddr row)).getLsbD (7 - col)

/-- The innermost body of DRW's loops (R109). -/
def drawBit (s : State) (x y : Reg) (row : Nat) (c : Canvas) (col : Nat) : Canvas :=
  if s.spriteBit row col then
    match place s.params ((drawOrigin s x y c).1 + col) ((drawOrigin s x y c).2 + row) with
    | none => c
    | some t => c.drawPixel t
  else c

/-- One sprite row, left column first (R109). -/
def drawRow (s : State) (x y : Reg) (c : Canvas) (row : Nat) : Canvas :=
  (List.range 8).foldl (drawBit s x y row) c

/-- The sprite's `n` rows, top row first, with VF zeroed before the loop (R109). -/
def drawSprite (s : State) (x y : Reg) (n : Nat) : Canvas :=
  (List.range n).foldl (drawRow s x y) { vf := 0#8, fb := s.fb }

/-- The state with the canvas's VF and framebuffer. -/
def State.putCanvas (s : State) (c : Canvas) : State := { s.writeV VF c.vf with fb := c.fb }

/-- Dxyn DRW Vx, Vy, nibble: VF is zeroed, each set bit's pixel collides and flips, a draw is pending (R109). -/
def execDrw (x y : Reg) (n : Nibble) (s : State) : Result :=
  .next (s.putCanvas (drawSprite s x y n.toNat)).markDraw

end Sys2Proof.Machine
end

