-- ==== Sys2Proof/Machine/Flow.lean ====
section
/-! DEFINITION. Control transfer (spec/41_flow.md): SYS, RET, JP, CALL, JP V0. A meaning runs after the fetch, so PC
already holds the instruction's address plus 2 (R62). -/

namespace Sys2Proof.Machine

/-- 0nnn SYS: "nothing: the cycle's fetch and PC advance are the whole effect" (R74). -/
def execSys (_nnn : Addr) (s : State) : Result := .next s

/-- 00EE RET (R75). -/
def execRet (s : State) : Result :=
  if s.sp.toNat = 0 then .next (s.raiseFault .stackUnderflow)
  else if s.sp.toNat > 16 then .next (s.raiseFault .stackOverflow)
  else .next s.popPc

/-- 1nnn JP (R76). -/
def execJp (nnn : Addr) (s : State) : Result := .next (s.setPc nnn)

/-- 2nnn CALL: the PC pushed is the address of the instruction after the CALL (R77). -/
def execCall (nnn : Addr) (s : State) : Result :=
  if s.sp.toNat ≥ 16 then .next (s.raiseFault .stackOverflow)
  else .next ((s.push s.pc).setPc nnn)

/-- Bnnn JP V0: `pc <- (V[0] + nnn) mod 4096` (R78). -/
def execJpV0 (nnn : Addr) (s : State) : Result := .next (s.setPc ((s.readV 0x0#4).setWidth 12 + nnn))

end Sys2Proof.Machine
end

