-- ==== Sys2Proof/Machine/IndexMemory.lean ====
section
/-! DEFINITION. The index register and the transfers between registers and RAM (spec/44_index_memory.md). None of them
changes I as a side effect (R105 to R107). -/

namespace Sys2Proof.Machine

/-- Annn LD I, addr (R102). -/
def execLdI (nnn : Addr) (s : State) : Result := .next (s.setI nnn)

/-- Fx1E ADD I, Vx: `I <- (I + V[x]) mod 4096`, no flag (R103). -/
def execAddI (x : Reg) (s : State) : Result := .next (s.setI (s.i + (s.readV x).setWidth 12))

/-- Fx29 LD F, Vx: `I <- (V[x] * 5) mod 4096` (R104). -/
def execLdF (x : Reg) (s : State) : Result := .next (s.setI (fontAddr (s.readV x)))

/-- Fx33 LD B, Vx: the decimal digits at I, I + 1, I + 2 (R105). -/
def execLdB (x : Reg) (s : State) : Result :=
  .next (((s.writeByte (s.memAddr 0) (hundredsDigit (s.readV x))).writeByte (s.memAddr 1)
    (tensDigit (s.readV x))).writeByte (s.memAddr 2) (onesDigit (s.readV x)))

/-- Fx55 LD [I], Vx: V0 to Vx to RAM from I on (R106). -/
def execStoreRegs (x : Reg) (s : State) : Result := .next (s.storeBlock (x.toNat + 1))

/-- Fx65 LD Vx, [I]: V0 to Vx from RAM from I on (R107). -/
def execLoadRegs (x : Reg) (s : State) : Result := .next (s.loadBlock (x.toNat + 1))

end Sys2Proof.Machine
end

