-- ==== Sys2Proof/Machine/Skips.lean ====
section
/-! DEFINITION. Conditional skips (spec/42_skips.md). -/

namespace Sys2Proof.Machine

/-- 3xkk SE Vx, byte (R80). -/
def execSeImm (x : Reg) (kk : Byte) (s : State) : Result := .next (s.skipIf (s.readV x == kk))

/-- 4xkk SNE Vx, byte (R81). -/
def execSneImm (x : Reg) (kk : Byte) (s : State) : Result := .next (s.skipIf (s.readV x != kk))

/-- 5xy0 SE Vx, Vy (R82). -/
def execSeReg (x y : Reg) (s : State) : Result := .next (s.skipIf (s.readV x == s.readV y))

/-- 9xy0 SNE Vx, Vy (R83). -/
def execSneReg (x y : Reg) (s : State) : Result := .next (s.skipIf (s.readV x != s.readV y))

/-- Ex9E SKP: skip if the key Vx names is pressed; KEY_INDEX where Vx names none (R84, R85). -/
def execSkp (x : Reg) (s : State) : Result :=
  match keyIndex s.params.keyIndex (s.readV x) with
  | none => .next (s.raiseFault .keyIndex)
  | some k => .next (s.skipIf (s.key k))

/-- ExA1 SKNP: skip if the key Vx names is not pressed; KEY_INDEX where Vx names none (R84, R86). -/
def execSknp (x : Reg) (s : State) : Result :=
  match keyIndex s.params.keyIndex (s.readV x) with
  | none => .next (s.raiseFault .keyIndex)
  | some k => .next (s.skipIf (!s.key k))

end Sys2Proof.Machine
end

