-- ==== Sys2Proof/Machine/TimersInput.lean ====
section
/-! DEFINITION. Timers and key wait (spec/46_timers_input.md). -/

namespace Sys2Proof.Machine

/-- Fx07 LD Vx, DT (R112). -/
def execLdVxDt (x : Reg) (s : State) : Result := .next (s.writeV x s.dt)

/-- Fx15 LD DT, Vx (R113). -/
def execLdDtVx (x : Reg) (s : State) : Result := .next (s.setDt (s.readV x))

/-- Fx18 LD ST, Vx (R114). -/
def execLdStVx (x : Reg) (s : State) : Result := .next (s.setSt (s.readV x))

/-- Fx0A LD Vx, K (R115): nothing under `nop`; under `waitKey` the lowest pressed key, or PC back to this instruction
so that the next cycle fetches it again. -/
def execLdVxK (x : Reg) (s : State) : Result :=
  match s.params.fx0a with
  | .nop => .next s
  | .waitKey =>
    match s.lowestKey with
    | some k => .next (s.writeV x (BitVec.ofNat 8 k))
    | none => .next (s.setPc (s.pc - 2#12))

end Sys2Proof.Machine
end

