-- ==== Sys2Proof/Machine/Cycle.lean ====
section
/-! DEFINITION. One instruction cycle (R60 to R64): fetch, decode, execute. -/

namespace Sys2Proof.Machine

/-- Execute an opcode on the state after its fetch (R62): its instruction's meaning, or nothing further for a no-op
encoding (R56). -/
def executeWord (w : Opcode) (s : State) : Result :=
  match decodeWord s.params w with
  | .ok i => exec i s
  | .error _ => .next s

/-- `Cycle()` (R60). -/
def cycle (s : State) : Result := executeWord s.fetchWord s.fetched

/-- What the core does next: a cycle, or nothing while `halted = 1` (R64; log entry 5). -/
def coreStep (s : State) : Result := if s.halted then .next s else cycle s

end Sys2Proof.Machine
end

