-- ==== Sys2Proof/Machine/Step.lean ====
section
/-! DEFINITION. The machine's step is one cycle (R60); a tick runs several and is a host operation (Machine/Tick.lean;
log entry 4). -/

namespace Sys2Proof.Machine

/-- One step: one cycle, or none while halted (R60, R64). -/
def step (s : State) : Host.Outcome State Fault Refusal := coreStep s

/-- The state with the word `w` of `nbits` bits where the next step fetches, on a core that runs. -/
def State.withFetchWord (s : State) (nbits w : Nat) : State := s.placeWord (tableWord nbits w)

end Sys2Proof.Machine
end

