-- ==== Sys2Proof/Machine/Tick.lean ====
section
/-! DEFINITION. The tick (R65 to R71) and the notifications it ends with (R130 to R132). -/

namespace Sys2Proof.Machine

/-- An output event delivered to the host (R130). -/
inductive Notification where
  /-- FrameReady, with a copy of the pixels (R131). -/
  | frameReady (fb : Framebuffer)
  /-- SoundStateChanged, with the new value of the sound-active predicate (R132). -/
  | soundStateChanged (active : Bool)
deriving DecidableEq, Repr

/-- The sound-active predicate `ST > 0` (R71, R127). -/
def State.soundActive (s : State) : Bool := s.st != 0#8

/-- Whether the batch ends after the cycle that led here: `vsync = 1 and draw_pending = 1` (R65, R67). -/
def State.vsyncStops (s : State) : Bool := s.vsync && s.drawPending

/-- Step 2 of a tick (R65, R67): at most `budget` cycles, none while halted, and none after a pending draw under
vsync. -/
def batch : Nat → State → Result
  | 0, s => .next s
  | budget + 1, s =>
    if s.halted then .next s
    else
      match coreStep s with
      | .next t => if t.vsyncStops then .next t else batch budget t
      | .fault r => .fault r
      | .refused r => .refused r

/-- A timer one tick later: 1 less, if it is nonzero (R69). -/
def timerTick (b : Byte) : Byte := if b = 0#8 then 0#8 else b - 1#8

/-- Steps 3 and 4 of a tick: each timer once (R69). -/
def State.tickTimers (s : State) : State := { s with dt := timerTick s.dt, st := timerTick s.st }

/-- `Notify()`'s events, in the order emitted (R130). -/
def State.notifications (s : State) : List Notification :=
  (if s.drawPending then [.frameReady s.fb] else [])
    ++ (if s.soundActive != s.soundLatch then [.soundStateChanged s.soundActive] else [])

/-- `Notify()`'s one write: the sound latch holds the value last reported (R130). -/
def State.latchSound (s : State) : State := { s with soundLatch := s.soundActive }

/-- Step 1 of a tick: `draw_pending <- 0` (R65, R66). -/
def State.clearDraw (s : State) : State := { s with drawPending := false }

/-- `Tick()` (R65): the state after it and the notifications it raised. -/
def tick (s : State) : Host.Outcome (State × List Notification) Fault Refusal :=
  match batch s.clockRate.toNat s.clearDraw with
  | .next t => .next (t.tickTimers.latchSound, t.tickTimers.notifications)
  | .fault r => .fault r
  | .refused r => .refused r

end Sys2Proof.Machine
end

