-- ==== Sys2Proof/Machine/HostInterface.lean ====
section
/-! DEFINITION. The host's operations (R124): the resets (R141 to R143), SetKey and the configuration (R125, R129), the
queries (R126 to R128), the save state (R133 to R136), the debug readout (R137), and a run of operations (R149). -/

namespace Sys2Proof.Machine

/-! ## Resets -/

/-- What LoadProgram and Reset clear alike (R142, R143): registers, stack, timers, decode scratch, keys, display and
fault status; PC is 0x200. The seed, the clock rate and vsync keep their values. -/
def State.clearCore (s : State) : State :=
  State.clearFault { s with
    v := Vector.replicate 16 0#8, stack := Vector.replicate 16 0#12, keys := Vector.replicate 16 false,
    i := 0#12, sp := 0#12, dt := 0#8, st := 0#8, op := 0#16, fb := Framebuffer.clear, drawPending := false,
    soundLatch := false, pc := 0x200#12 }

/-- `Initialize()` (R141). -/
def State.initCore (s : State) : State := State.initial s.params

/-- `Reset()`, the partial reset (R143): RAM from 0x050 on is cleared and the font region keeps what it holds. -/
def State.partialReset (s : State) : State := { s.clearCore with mem := Memory.below 0x050 s.mem }

/-- The state after a successful `LoadProgram` of the bytes `prog` (R142): the font is reinstalled, the rest of RAM
cleared, the program copied to 0x200. -/
def State.withProgram (s : State) (prog : List Byte) : State :=
  { s.clearCore with mem := Memory.image s.params.font 0x200 prog }

/-! ## The save state -/

/-- The save-state record (R134), "abstract, a tuple". I, PC, SP and the stack entries are natural numbers, since
LoadState reduces them mod 4096 (R135; log entry 17). -/
structure SaveRecord where
  /-- Advisory; LoadState does not examine it. -/
  version : Word32
  seed : Word32
  v : Vector Byte 16
  i : Nat
  pc : Nat
  sp : Nat
  dt : Byte
  st : Byte
  stack : Vector Nat 16
  /-- RAM[0x200..0xFFF]; entry j is the byte at 0x200 + j. -/
  ram : Vector Byte 3584
  fb : Framebuffer
deriving DecidableEq, Repr

/-- `SaveState()` (R133, R134). -/
def State.saveState (s : State) : SaveRecord where
  version := s.params.saveVersion
  seed := s.seed
  v := s.v
  i := s.i.toNat
  pc := s.pc.toNat
  sp := s.sp.toNat
  dt := s.dt
  st := s.st
  stack := s.stack.map (·.toNat)
  ram := Vector.ofFn fun j => Memory.read s.params.font s.mem (0x200 + j.val)
  fb := s.fb

/-- `LoadState(rec)` (R135). -/
def State.loadState (s : State) (r : SaveRecord) : State :=
  State.clearFault { s with
    seed := r.seed, v := r.v, i := BitVec.ofNat 12 r.i, pc := BitVec.ofNat 12 r.pc, sp := BitVec.ofNat 12 r.sp,
    dt := r.dt, st := r.st, stack := r.stack.map (BitVec.ofNat 12 ·),
    mem := Memory.below 0x200 s.mem ++ Memory.image s.params.font 0x200 r.ram.toList,
    fb := r.fb, keys := Vector.replicate 16 false }

/-! ## Keys, configuration, queries -/

/-- `SetKey(k, pressed)`: an index outside 0..15 changes nothing (R125). -/
def State.setKey (s : State) (k : Nat) (pressed : Bool) : State :=
  if k ≤ 15 then { s with keys := s.keys.setIfInBounds k pressed } else s

/-- `SetClockRate(n)`: `n mod 2^32` (R129). -/
def State.setClockRate (s : State) (n : Nat) : State := { s with clockRate := BitVec.ofNat 32 n }

/-- `SetVsync(b)` (R129). -/
def State.setVsync (s : State) (b : Bool) : State := { s with vsync := b }

/-! ## The operations -/

/-- The host's operations (R124), and the debug readout (R137). -/
inductive HostOp where
  /-- `Initialize()`. -/
  | initCore
  /-- `LoadProgram(bytes, length)`. -/
  | loadProgram (bytes : List Byte) (length : Nat)
  /-- `Reset()`. -/
  | partialReset
  /-- `SetKey(k, pressed)`. -/
  | setKey (k : Nat) (pressed : Bool)
  /-- `Tick()`. -/
  | tick
  /-- `ShouldPresentFrame()`. -/
  | shouldPresentFrame
  /-- `IsSoundActive()`. -/
  | isSoundActive
  /-- `GetPixel(x, y)`. -/
  | getPixel (x y : Nat)
  /-- `GetClockRate()`. -/
  | getClockRate
  /-- `SetClockRate(n)`. -/
  | setClockRate (n : Nat)
  /-- `SetVsync(b)`. -/
  | setVsync (b : Bool)
  /-- `SaveState()`. -/
  | saveState
  /-- `LoadState(rec)`. -/
  | loadState (r : SaveRecord)
  /-- The debug readout of every element of state (R137). -/
  | readState
deriving DecidableEq, Repr

/-- What an operation returns (R124). -/
inductive Reply where
  /-- No result. -/
  | unit
  /-- A truth value. -/
  | bool (b : Bool)
  /-- The clock rate. -/
  | clockRate (n : Word32)
  /-- A save-state record. -/
  | record (r : SaveRecord)
  /-- The whole state (R137). -/
  | state (s : State)
deriving DecidableEq, Repr

/-- An operation's end: the state after it, its result, and the notifications raised. -/
structure HostResult where
  state : State
  reply : Reply
  notes : List Notification
deriving DecidableEq, Repr

/-- The outcome of a host operation. -/
abbrev HostOutcome := Host.Outcome HostResult Fault Refusal

/-- An operation that ends in `s` with a result and raises nothing. -/
def quietly (s : State) (r : Reply) : HostOutcome := .next { state := s, reply := r, notes := [] }

/-- `LoadProgram(bytes, length)` (R142). A buffer shorter than a legal length is given no effect by the spec (log
entry 11). -/
def loadProgram (s : State) (bytes : List Byte) (length : Nat) : HostOutcome :=
  if length = 0 ∨ length > 3584 then quietly s (.bool false)
  else if bytes.length < length then .fault .programBufferTooShort
  else quietly (s.withProgram (bytes.take length)) (.bool true)

/-- `GetPixel(x, y)` (R128). -/
def getPixel (s : State) (x y : Nat) : HostOutcome :=
  if x ≤ 63 ∧ y ≤ 31 then quietly s (.bool (s.pixel (y * 64 + x))) else .refused .getPixelOutOfRange

/-- A host operation, one atomic transaction on the state (R2, R13, R124). -/
def perform (o : HostOp) (s : State) : HostOutcome :=
  match o with
  | .initCore => quietly s.initCore (.bool true)
  | .loadProgram bytes length => loadProgram s bytes length
  | .partialReset => quietly s.partialReset .unit
  | .setKey k pressed => quietly (s.setKey k pressed) .unit
  | .tick =>
    match tick s with
    | .next (t, notes) => .next { state := t, reply := .unit, notes := notes }
    | .fault r => .fault r
    | .refused r => .refused r
  | .shouldPresentFrame => quietly s (.bool s.drawPending)
  | .isSoundActive => quietly s (.bool s.soundActive)
  | .getPixel x y => getPixel s x y
  | .getClockRate => quietly s (.clockRate s.clockRate)
  | .setClockRate n => quietly (s.setClockRate n) .unit
  | .setVsync b => quietly (s.setVsync b) .unit
  | .saveState => quietly s (.record s.saveState)
  | .loadState r => quietly (s.loadState r) (.bool true)
  | .readState => quietly s (.state s)

/-- A sequence of host operations, serialised as R140 has it: the last state, and the notifications in the order
emitted. -/
def performAll : List HostOp → State → Host.Outcome (State × List Notification) Fault Refusal
  | [], s => .next (s, [])
  | o :: rest, s =>
    match perform o s with
    | .next r =>
      match performAll rest r.state with
      | .next (t, notes) => .next (t, r.notes ++ notes)
      | .fault e => .fault e
      | .refused e => .refused e
    | .fault e => .fault e
    | .refused e => .refused e

/-! ## Runs (R149) -/

/-- The operations a run's sequence is made of (R149): "SetKey, configuration, query and Tick operations". The debug
readout is a read between operations that changes nothing (R137; log entry 6). -/
def HostOp.inRun : HostOp → Bool
  | .setKey _ _ | .getClockRate | .setClockRate _ | .setVsync _ | .shouldPresentFrame | .isSoundActive | .getPixel _ _
  | .tick | .readState => true
  | .initCore | .loadProgram _ _ | .partialReset | .saveState | .loadState _ => false

/-- The launch of a run (R149): Initialize, then LoadProgram of `prog` "returning true"; none where it returns anything
else. DESIGN CHOICE (log entry 22): nothing stands between the two, as in R149, where R144 lets the host configure first; a
run configures after the load. Initialize leaves the same state whatever the state before it, the parameters apart (R141). -/
def launch (p : Params) (prog : List Byte) : Option State :=
  match perform (.loadProgram prog prog.length) (State.initial p) with
  | .next { state := s, reply := .bool true, notes := _ } => some s
  | _ => none

/-- A run (R149): a launch, then the operations `ops`, the configuration among them (log entry 22); its end is the state after the last of them. None is no run: the
launch failed, or `ops` holds an operation that a run does not. -/
def hostRun (p : Params) (prog : List Byte) (ops : List HostOp) :
    Option (Host.Outcome (State × List Notification) Fault Refusal) :=
  if ops.all HostOp.inRun then (launch p prog).map (performAll ops) else none

end Sys2Proof.Machine
end

