-- ==== Sys2Proof/Safety.lean ====
section
/-! DEFINITION. What a good state is, and the frames: which fields an instruction may change, in the terms the
statements use. -/

namespace Sys2Proof.Machine

/-- The memory keeps its canonical form. -/
def State.MemOk (s : State) : Prop := Memory.wf s.params.font s.mem = true

/-- SP holds one of its legal values, 0 to 16 (R20). -/
def State.SpLegal (s : State) : Prop := s.sp.toNat ≤ 16

/-- The fault status is consistent (R30, R120): a code stands exactly while halted, and without one there is no
fault_pc. -/
structure State.FaultStatusOk (s : State) : Prop where
  halted_iff : s.halted = true ↔ s.faultCode ≠ .none
  running_pc : s.halted = false → s.faultPc = 0#12

/-- The invariant every step keeps. -/
structure State.Inv (s : State) : Prop where
  mem : s.MemOk
  sp : s.SpLegal
  fault : s.FaultStatusOk

/-! ## Frames -/

/-- Every byte of RAM reads as before. -/
def SameMemory (s t : State) : Prop := ∀ a : Addr, t.readByte a = s.readByte a

/-- Only V registers may differ, and no byte of RAM does. -/
def OnlyV (s t : State) : Prop := t = { s with v := t.v } ∧ SameMemory s t

/-- Only PC may differ, and no byte of RAM does. -/
def OnlyPc (s t : State) : Prop := t = { s with pc := t.pc } ∧ SameMemory s t

/-- Only I may differ, and no byte of RAM does. -/
def OnlyI (s t : State) : Prop := t = { s with i := t.i } ∧ SameMemory s t

/-- Only RAM may differ, and only at the addresses that satisfy `stored`. -/
def OnlyMemAt (stored : Addr → Prop) (s t : State) : Prop :=
  t = { s with mem := t.mem } ∧ ∀ a : Addr, ¬ stored a → t.readByte a = s.readByte a

/-- `t` is `s` with the fault `code` raised by the instruction two below PC (R117): the fault status is written and
nothing else. -/
def FaultedFrom (s t : State) (code : FaultCode) : Prop :=
  t = { s with halted := true, faultCode := code, faultPc := t.faultPc } ∧ t.faultPc + 2#12 = s.pc ∧ SameMemory s t

/-- Register r is one that the instruction may write: its `x` operand, V0 to Vx for Fx65, and VF for those that write it
as a flag (R14, R15). -/
def MayWriteV : Instr → Reg → Prop
  | .ldImm x _, r | .addImm x _, r | .ldReg x _, r | .orReg x _, r | .andReg x _, r | .xorReg x _, r | .rnd x _, r
  | .ldVxDt x, r | .ldVxK x, r => r = x
  | .addReg x _, r | .subReg x _, r | .shr x _, r | .subnReg x _, r | .shl x _, r => r = x ∨ r = VF
  | .drw _ _ _, r => r = VF
  | .loadRegs x, r => r.toNat ≤ x.toNat
  | .cls, _ | .ret, _ | .sys _, _ | .jp _, _ | .call _, _ | .seImm _ _, _ | .sneImm _ _, _ | .seReg _ _, _
  | .sneReg _ _, _ | .ldI _, _ | .jpV0 _, _ | .skp _, _ | .sknp _, _ | .ldDtVx _, _ | .ldStVx _, _ | .addI _, _
  | .ldF _, _ | .ldB _, _ | .storeRegs _, _ => False

/-! ## What an instruction answers -/

/-- The instruction completes, register x then holds `val`, and nothing else differs. -/
def SetsV (i : Instr) (s : State) (x : Reg) (val : Nat) : Prop :=
  ∃ t, exec i s = .next t ∧ (t.readV x).toNat = val ∧ (∀ r : Reg, r ≠ x → t.readV r = s.readV r) ∧ OnlyV s t

/-- The instruction completes, skips the next one exactly if `c` (R79), and nothing but PC differs. -/
def SkipsIf (i : Instr) (s : State) (c : Prop) : Prop :=
  ∃ t, exec i s = .next t ∧ (c → t.pc = s.pc + 2#12) ∧ (¬ c → t.pc = s.pc) ∧ OnlyPc s t

/-- The instruction completes, I is then `val`, and nothing else differs. -/
def SetsI (i : Instr) (s : State) (val : Nat) : Prop :=
  ∃ t, exec i s = .next t ∧ t.i.toNat = val ∧ OnlyI s t

/-- The instruction raises the fault `code` and does nothing else (R63, R117). -/
def Raises (i : Instr) (s : State) (code : FaultCode) : Prop := ∃ t, exec i s = .next t ∧ FaultedFrom s t code

/-- The instruction computes a flag `f` and a result `r` of Vx and Vy and writes both in the order `P_VF_ORDER` names
(R88). -/
def WritesFlagged (i : Instr) (s : State) (x y : Reg) (f r : Nat → Nat → Nat) : Prop :=
  ∃ t, exec i s = .next t ∧ OnlyV s t ∧
    (s.params.vfOrder = .sequential →
      let v' : Reg → Nat := fun q => if q = 0xF#4 then f (s.readV x).toNat (s.readV y).toNat else (s.readV q).toNat
      ∀ q : Reg, (t.readV q).toNat = if q = x then r (v' x) (v' y) else v' q) ∧
    (s.params.vfOrder = .snapshot →
      ∀ q : Reg, (t.readV q).toNat =
        if q = 0xF#4 then f (s.readV x).toNat (s.readV y).toNat
        else if q = x then r (s.readV x).toNat (s.readV y).toNat else (s.readV q).toNat)

/-! ## The no-op encodings and the drawing of a sprite, in the spec's terms -/

/-- The no-op encodings under the default parameters, as the table of R56 lists them. -/
def NoOpWord (w : Nat) : Prop :=
  (w / 4096 = 0x0 ∧ w ≠ 0x00E0 ∧ w ≠ 0x00EE) ∨
    (w / 4096 = 0x5 ∧ w % 16 ≠ 0) ∨
    (w / 4096 = 0x8 ∧ w % 16 ∈ [0x8, 0x9, 0xA, 0xB, 0xC, 0xD, 0xF]) ∨
    (w / 4096 = 0x9 ∧ w % 16 ≠ 0) ∨
    (w / 4096 = 0xE ∧ w % 256 ∉ [0x9E, 0xA1]) ∨
    (w / 4096 = 0xF ∧ w % 256 ∉ [0x07, 0x15, 0x18, 0x1E, 0x29, 0x33, 0x55, 0x65])

/-- The sprite of a DRW of `n` rows has a set bit that lands on framebuffer index `q`, its top-left corner being at
column V[x] and row V[y] (R109, R110). -/
def SpriteCovers (s : State) (x y : Reg) (n : Nibble) (q : Nat) : Prop :=
  ∃ row < n.toNat, ∃ col < 8, (s.readByte (s.memAddr row)).getLsbD (7 - col) = true ∧
    place s.params ((s.readV x).toNat + col) ((s.readV y).toNat + row) = some q

/-- The (row, column) pairs of a sprite of `n` rows in the order R109's loops visit them. -/
def spriteOrder (n : Nat) : List (Nat × Nat) :=
  (List.range n).flatMap fun row => (List.range 8).map fun col => (row, col)

/-- One visit of R109's innermost loop on the pixels and V[15] as they are: `cx` and `cy` are read again before each set
bit under `sequential`, and are those of the start under `snapshot`. -/
def spriteVisit (s : State) (x y : Reg) (d : (Nat → Bool) × Nat) (rc : Nat × Nat) : (Nat → Bool) × Nat :=
  let v : Reg → Nat := fun q =>
    if q = 0xF#4 ∧ s.params.vfOrder = .sequential then d.2 else (s.readV q).toNat
  if (s.readByte (s.memAddr rc.1)).getLsbD (7 - rc.2) then
    match place s.params (v x + rc.2) (v y + rc.1) with
    | none => d
    | some t => (fun q => if q = t then !d.1 q else d.1 q, if d.1 t then 1 else d.2)
  else d

/-- A run has faulted when `halted = 1` at its end (R149). -/
def State.HasFaulted (s : State) : Prop := s.halted = true

end Sys2Proof.Machine
end

