-- ==== Sys2Proof/Certificates/Slice0/Obligations.lean ====
section
/-! DEFINITION. The statements for the provers. Each docstring names the rule of spec/ it formalises; an instruction's
statements are about the state after its fetch, in which PC is the instruction's address plus 2 (R62). -/

open Sys2Proof Sys2Proof.Machine

/-! ## The cycle, the decoder and the encoder -/

/-- R60: a cycle fetches the opcode at PC, advances PC by 2 and executes the opcode; with a word the decoder rejects it
ends after the fetch. -/
def Obligations.StepRunsDecodedInstruction : Prop :=
  ∀ s : State, s.halted = false →
    (∀ i : Instr, decodeWord s.params (s.readByte s.pc ++ s.readByte (s.pc + 1#12)) = .ok i →
      step s = exec i { s with op := s.readByte s.pc ++ s.readByte (s.pc + 1#12), pc := s.pc + 2#12 }) ∧
    ((∃ e, decodeWord s.params (s.readByte s.pc ++ s.readByte (s.pc + 1#12)) = .error e) →
      step s = .next { s with op := s.readByte s.pc ++ s.readByte (s.pc + 1#12), pc := s.pc + 2#12 })

/-- R56: under the default family-0, skip and Fx0A parameters a no-op encoding consumes its fetch and does nothing
else. -/
def Obligations.NoOpEncodingsRunOnlyTheirFetch : Prop :=
  ∀ s : State, s.halted = false → s.params.family0 = .fullWord → s.params.skipRegN = .strict → s.params.fx0a = .nop →
    NoOpWord ((s.readByte s.pc).toNat * 256 + (s.readByte (s.pc + 1#12)).toNat) →
    step s = .next { s with op := s.readByte s.pc ++ s.readByte (s.pc + 1#12), pc := s.pc + 2#12 }

/-- R64: while halted no cycle runs (the step answers the same state: log entry 5), and only Initialize, LoadProgram,
Reset and LoadState clear `halted`. -/
def Obligations.HaltedCoreRunsNoCycle : Prop :=
  (∀ s : State, s.halted = true → step s = .next s) ∧
  ∀ (o : HostOp) (s : State) (r : HostResult), s.halted = true → perform o s = .next r → r.state.halted = false →
    o = .initCore ∨ (∃ bytes length, o = .loadProgram bytes length) ∨ o = .partialReset ∨ ∃ rec, o = .loadState rec

/-- Every step answers a next state: no instruction and no fault ends the machine (R116, R117). That a halted core's step
answers one too, the same state, is the model's choice (log entry 5); R64 says only that no cycle runs. -/
def Obligations.EveryStepAnswersNext : Prop := ∀ s : State, ∃ t, step s = .next t

/-- The decoder reads back every well-formed instruction the encoder writes, under every parameter value (R51 to R55). -/
def Obligations.DecodeInvertsEncode : Prop :=
  ∀ (p : Params) (i : Instr), wellFormed p i = true → decodeWord p (encode i) = .ok i

/-- Each pattern of the opcode table, with every operand, decodes to its row's instruction, whatever the parameters (R51,
R52; family 0 and the other values of `n` in families 5 and 9 have statements of their own). -/
def Obligations.PatternsDecode : Prop :=
  ∀ (p : Params) (x y : Reg) (n : Nibble) (kk : Byte) (nnn : Addr),
    decodeWord p 0x00E0#16 = .ok .cls ∧ decodeWord p 0x00EE#16 = .ok .ret ∧
    decodeWord p (0x1#4 ++ nnn) = .ok (.jp nnn) ∧ decodeWord p (0x2#4 ++ nnn) = .ok (.call nnn) ∧
    decodeWord p (0x3#4 ++ x ++ kk) = .ok (.seImm x kk) ∧ decodeWord p (0x4#4 ++ x ++ kk) = .ok (.sneImm x kk) ∧
    decodeWord p (0x5#4 ++ x ++ y ++ 0x0#4) = .ok (.seReg x y) ∧
    decodeWord p (0x6#4 ++ x ++ kk) = .ok (.ldImm x kk) ∧ decodeWord p (0x7#4 ++ x ++ kk) = .ok (.addImm x kk) ∧
    decodeWord p (0x8#4 ++ x ++ y ++ 0x0#4) = .ok (.ldReg x y) ∧
    decodeWord p (0x8#4 ++ x ++ y ++ 0x1#4) = .ok (.orReg x y) ∧
    decodeWord p (0x8#4 ++ x ++ y ++ 0x2#4) = .ok (.andReg x y) ∧
    decodeWord p (0x8#4 ++ x ++ y ++ 0x3#4) = .ok (.xorReg x y) ∧
    decodeWord p (0x8#4 ++ x ++ y ++ 0x4#4) = .ok (.addReg x y) ∧
    decodeWord p (0x8#4 ++ x ++ y ++ 0x5#4) = .ok (.subReg x y) ∧
    decodeWord p (0x8#4 ++ x ++ y ++ 0x6#4) = .ok (.shr x y) ∧
    decodeWord p (0x8#4 ++ x ++ y ++ 0x7#4) = .ok (.subnReg x y) ∧
    decodeWord p (0x8#4 ++ x ++ y ++ 0xE#4) = .ok (.shl x y) ∧
    decodeWord p (0x9#4 ++ x ++ y ++ 0x0#4) = .ok (.sneReg x y) ∧
    decodeWord p (0xA#4 ++ nnn) = .ok (.ldI nnn) ∧ decodeWord p (0xB#4 ++ nnn) = .ok (.jpV0 nnn) ∧
    decodeWord p (0xC#4 ++ x ++ kk) = .ok (.rnd x kk) ∧ decodeWord p (0xD#4 ++ x ++ y ++ n) = .ok (.drw x y n) ∧
    decodeWord p (0xE#4 ++ x ++ 0x9E#8) = .ok (.skp x) ∧ decodeWord p (0xE#4 ++ x ++ 0xA1#8) = .ok (.sknp x) ∧
    decodeWord p (0xF#4 ++ x ++ 0x07#8) = .ok (.ldVxDt x) ∧ decodeWord p (0xF#4 ++ x ++ 0x0A#8) = .ok (.ldVxK x) ∧
    decodeWord p (0xF#4 ++ x ++ 0x15#8) = .ok (.ldDtVx x) ∧ decodeWord p (0xF#4 ++ x ++ 0x18#8) = .ok (.ldStVx x) ∧
    decodeWord p (0xF#4 ++ x ++ 0x1E#8) = .ok (.addI x) ∧ decodeWord p (0xF#4 ++ x ++ 0x29#8) = .ok (.ldF x) ∧
    decodeWord p (0xF#4 ++ x ++ 0x33#8) = .ok (.ldB x) ∧ decodeWord p (0xF#4 ++ x ++ 0x55#8) = .ok (.storeRegs x) ∧
    decodeWord p (0xF#4 ++ x ++ 0x65#8) = .ok (.loadRegs x)

/-- R53: CLS and RET by the whole word under `fullWord`, by the low byte under `lowByte`; every other family-0 word is
SYS. -/
def Obligations.FamilyZeroSelection : Prop :=
  ∀ (p : Params) (nnn : Addr),
    (p.family0 = .fullWord → decodeWord p (0x0#4 ++ nnn) =
      .ok (if nnn.toNat = 0x0E0 then .cls else if nnn.toNat = 0x0EE then .ret else .sys nnn)) ∧
    (p.family0 = .lowByte → decodeWord p (0x0#4 ++ nnn) =
      .ok (if nnn.toNat % 256 = 0xE0 then .cls else if nnn.toNat % 256 = 0xEE then .ret else .sys nnn))

/-- Under the default sub-dispatch each word has one meaning: the encoder writes back the word an instruction was
decoded from (R51 to R55). -/
def Obligations.EncodeInvertsDecode : Prop :=
  ∀ (p : Params) (w : Opcode) (i : Instr), p.family0 = .fullWord → p.skipRegN = .strict →
    decodeWord p w = .ok i → encode i = w

/-- An instruction is well formed exactly when some word decodes to it (R51 to R55, R74). -/
def Obligations.WellFormedExactlyWhenDecoded : Prop :=
  ∀ (p : Params) (i : Instr), wellFormed p i = true ↔ ∃ w, decodeWord p w = .ok i

/-- Under the default sub-dispatch the words the decoder rejects are the no-op encodings of R56 that no row of the
opcode table names (SYS and Fx0A are rows, R57). -/
def Obligations.DecoderRejectsExactlyTheNoOpEncodings : Prop :=
  ∀ (p : Params) (w : Opcode), p.family0 = .fullWord → p.skipRegN = .strict →
    ((∃ e, decodeWord p w = .error e) ↔
      NoOpWord w.toNat ∧ w.toNat / 4096 ≠ 0 ∧ ¬ (w.toNat / 4096 = 0xF ∧ w.toNat % 256 = 0x0A))

/-- A few words of the opcode table, written out, decode to the instructions they stand for. -/
def Obligations.SampleWordsDecode : Prop :=
  decodeTableWord 16 0b0000000011100000 = some .cls ∧
  decodeTableWord 16 0b0000000011101110 = some .ret ∧
  decodeTableWord 16 0b0010001100000000 = some (.call 0x300#12) ∧
  decodeTableWord 16 0b0110101000010100 = some (.ldImm 0xA#4 0x14#8) ∧
  decodeTableWord 16 0b1000000100100111 = some (.subnReg 0x1#4 0x2#4) ∧
  decodeTableWord 16 0b1101001101000101 = some (.drw 0x3#4 0x4#4 0x5#4) ∧
  decodeTableWord 16 0b1110010110100001 = some (.sknp 0x5#4) ∧
  decodeTableWord 16 0b1111001001100101 = some (.loadRegs 0x2#4) ∧
  decodeTableWord 16 0b1000000100101000 = none

/-- A well-formed instruction's word, stored where a canonical state fetches, is the instruction the next step runs
(R38, R47). -/
def Obligations.StoredWordRunsNext : Prop :=
  ∀ (s : State) (i : Instr), s.MemOk → wellFormed s.params i = true →
    step (s.withFetchWord 16 (encode i).toNat) = exec i (s.withFetchWord 16 (encode i).toNat).fetched

/-! ## Invariants and whole-machine rules -/

/-- The state after reset meets the invariant: canonical memory, which is the model's choice of a form (log entry 9), a
legal SP (R20) and a consistent fault status (R30). -/
def Obligations.ResetMeetsInv : Prop := State.reset.Inv

/-- Every step keeps a legal SP (R20), a consistent fault status (R30, R117) and the canonical memory. The canonical form
is the model's choice, no rule of the spec (log entry 9). -/
def Obligations.StepKeepsInv : Prop := ∀ s t : State, s.Inv → step s = .next t → t.Inv

/-- Every host operation keeps the canonical memory (the model's choice of a form, log entry 9) and a consistent fault
status, and every one but LoadState keeps SP legal: "A value of SP above 16 cannot arise from instructions; it can arise only from a save-state record" (R20). -/
def Obligations.HostOperationsKeepInv : Prop :=
  ∀ (o : HostOp) (s : State) (r : HostResult), s.Inv → perform o s = .next r →
    r.state.MemOk ∧ r.state.FaultStatusOk ∧ ((∀ rec, o ≠ .loadState rec) → r.state.SpLegal)

/-- No step changes the keys, the run configuration, the sound latch or the parameters (R7, R26, R29, R31). -/
def Obligations.StepLeavesHostStateAlone : Prop :=
  ∀ s t : State, step s = .next t →
    t.keys = s.keys ∧ t.clockRate = s.clockRate ∧ t.vsync = s.vsync ∧ t.soundLatch = s.soundLatch ∧
      t.params = s.params

/-- Which instructions write what: the V registers, PC, the fault status, the seed, I, the stack, SP, the framebuffer and
its flag, RAM, the timers, the decode scratch (R14, R15, R17 to R19, R21, R22, R24, R27, R28, R30, R40). -/
def Obligations.EachPieceOfStateHasItsWriters : Prop :=
  ∀ (i : Instr) (s t : State), exec i s = .next t →
    (∀ r : Reg, ¬ MayWriteV i r → t.readV r = s.readV r) ∧
    (i = .ret ∨ (∃ a, i = .jp a) ∨ (∃ a, i = .call a) ∨ (∃ a, i = .jpV0 a) ∨ (∃ x kk, i = .seImm x kk) ∨
      (∃ x kk, i = .sneImm x kk) ∨ (∃ x y, i = .seReg x y) ∨ (∃ x y, i = .sneReg x y) ∨ (∃ x, i = .skp x) ∨
      (∃ x, i = .sknp x) ∨ ((∃ x, i = .ldVxK x) ∧ s.params.fx0a = .waitKey) ∨ t.pc = s.pc) ∧
    ((∃ a, i = .call a) ∨ i = .ret ∨ (∃ x, i = .skp x) ∨ (∃ x, i = .sknp x) ∨
      (t.halted = s.halted ∧ t.faultCode = s.faultCode ∧ t.faultPc = s.faultPc)) ∧
    ((∃ x kk, i = .rnd x kk) ∨ t.seed = s.seed) ∧
    ((∃ a, i = .ldI a) ∨ (∃ x, i = .addI x) ∨ (∃ x, i = .ldF x) ∨ t.i = s.i) ∧
    ((∃ a, i = .call a) ∨ t.stack = s.stack) ∧
    ((∃ a, i = .call a) ∨ i = .ret ∨ t.sp = s.sp) ∧
    (i = .cls ∨ (∃ x y n, i = .drw x y n) ∨ (t.fb = s.fb ∧ t.drawPending = s.drawPending)) ∧
    ((∃ x, i = .ldB x) ∨ (∃ x, i = .storeRegs x) ∨ t.mem = s.mem) ∧
    ((∃ x, i = .ldDtVx x) ∨ t.dt = s.dt) ∧
    ((∃ x, i = .ldStVx x) ∨ t.st = s.st) ∧
    t.op = s.op

/-- The faults and their conditions are those of R116's table, and no other instruction faults. -/
def Obligations.FaultsAriseOnlyAsListed : Prop :=
  ∀ (i : Instr) (s t : State), s.halted = false → exec i s = .next t → t.halted = true →
    ((∃ a, i = .call a) ∧ s.sp.toNat ≥ 16 ∧ t.faultCode = .stackOverflow) ∨
    (i = .ret ∧ s.sp.toNat > 16 ∧ t.faultCode = .stackOverflow) ∨
    (i = .ret ∧ s.sp.toNat = 0 ∧ t.faultCode = .stackUnderflow) ∨
    ∃ x, (i = .skp x ∨ i = .sknp x) ∧ (s.readV x).toNat > 15 ∧ s.params.keyIndex = .fault ∧ t.faultCode = .keyIndex

/-- R63, R117: a step that enters the fault state has made no write but the fetch's, and records the code and the
address of the faulting instruction. -/
def Obligations.FaultsArePrecise : Prop :=
  ∀ s t : State, s.halted = false → step s = .next t → t.halted = true →
    t = { s with
      op := s.readByte s.pc ++ s.readByte (s.pc + 1#12), pc := s.pc + 2#12, halted := true,
      faultCode := t.faultCode, faultPc := s.pc } ∧ t.faultCode ≠ .none

/-- R27: "No instruction reads the scratch left by an earlier cycle". -/
def Obligations.DecodeScratchIsUnobservable : Prop :=
  ∀ (s : State) (w : Opcode), s.halted = false → step { s with op := w } = step s

/-- No instruction reads the run configuration, the sound latch, the draw-pending flag or ST: two states that differ in
them only run alike, and differ after as before, except where the instruction writes the flag or ST (R21, R24, R29,
R31). -/
def Obligations.InstructionsDoNotReadHostState : Prop :=
  ∀ (i : Instr) (s t : State) (rate : Word32) (vs latch draw : Bool) (snd : Byte), exec i s = .next t →
    ∃ u, exec i { s with clockRate := rate, vsync := vs, soundLatch := latch, drawPending := draw, st := snd } = .next u ∧
      u = { t with clockRate := rate, vsync := vs, soundLatch := latch, drawPending := u.drawPending, st := u.st } ∧
      (u.drawPending = draw ∧ t.drawPending = s.drawPending ∨ u.drawPending = true ∧ t.drawPending = true) ∧
      (u.st = snd ∧ t.st = s.st ∨ u.st = t.st)

/-! ## Control transfer (spec/41_flow.md) -/

/-- R74: SYS is the fetch alone. -/
def Obligations.SysDoesNothing : Prop := ∀ (nnn : Addr) (s : State), exec (.sys nnn) s = .next s

/-- R76, R78: JP sets PC to nnn, JP V0 to (V0 + nnn) mod 4096; nothing else changes. -/
def Obligations.JumpsSetPc : Prop :=
  ∀ (nnn : Addr) (s : State),
    (∃ t, exec (.jp nnn) s = .next t ∧ t.pc = nnn ∧ OnlyPc s t) ∧
    ∃ t, exec (.jpV0 nnn) s = .next t ∧ t.pc.toNat = ((s.readV 0x0#4).toNat + nnn.toNat) % 4096 ∧ OnlyPc s t

/-- R77: CALL with a free entry pushes the PC after the fetch and jumps; with 16 or more in use it faults. -/
def Obligations.CallPushesOrOverflows : Prop :=
  ∀ (nnn : Addr) (s : State),
    (s.sp.toNat < 16 → ∃ t, exec (.call nnn) s = .next t ∧
      t.readStack s.sp.toNat = s.pc ∧ (∀ k < 16, k ≠ s.sp.toNat → t.readStack k = s.readStack k) ∧
      t.sp.toNat = s.sp.toNat + 1 ∧ t.pc = nnn ∧
      t = { s with stack := t.stack, sp := t.sp, pc := t.pc } ∧ SameMemory s t) ∧
    (16 ≤ s.sp.toNat → Raises (.call nnn) s .stackOverflow)

/-- R75: RET pops the top entry into PC, the entry keeping its value; it faults on an empty stack and on an SP above
16. -/
def Obligations.RetPopsOrFaults : Prop :=
  ∀ s : State,
    (0 < s.sp.toNat → s.sp.toNat ≤ 16 → ∃ t, exec .ret s = .next t ∧
      t.sp.toNat = s.sp.toNat - 1 ∧ t.pc = s.readStack (s.sp.toNat - 1) ∧
      t = { s with sp := t.sp, pc := t.pc } ∧ SameMemory s t) ∧
    (s.sp.toNat = 0 → Raises .ret s .stackUnderflow) ∧
    (16 < s.sp.toNat → Raises .ret s .stackOverflow)

/-! ## Skips (spec/42_skips.md) -/

/-- R80, R81: the skips on an immediate. -/
def Obligations.ImmediateSkips : Prop :=
  ∀ (x : Reg) (kk : Byte) (s : State),
    SkipsIf (.seImm x kk) s (s.readV x = kk) ∧ SkipsIf (.sneImm x kk) s (s.readV x ≠ kk)

/-- R82, R83: the skips on two registers. R54: with N other than 0 the word is no instruction under `strict` and the same
skip under `ignoreN`. -/
def Obligations.RegisterSkips : Prop :=
  ∀ (x y : Reg),
    (∀ s : State,
      SkipsIf (.seReg x y) s (s.readV x = s.readV y) ∧ SkipsIf (.sneReg x y) s (s.readV x ≠ s.readV y)) ∧
    ∀ (p : Params) (n : Nibble),
      (p.skipRegN = .strict → n ≠ 0x0#4 →
        (∃ e, decodeWord p (0x5#4 ++ x ++ y ++ n) = .error e) ∧ ∃ e, decodeWord p (0x9#4 ++ x ++ y ++ n) = .error e) ∧
      (p.skipRegN = .ignoreN → decodeWord p (0x5#4 ++ x ++ y ++ n) = .ok (.seReg x y) ∧
        decodeWord p (0x9#4 ++ x ++ y ++ n) = .ok (.sneReg x y))

/-- R84 to R86: SKP and SKNP test the key Vx names, Vx itself up to 15 and its low nibble above under `lowNibble`; above
15 under `fault` both raise KEY_INDEX. -/
def Obligations.KeySkips : Prop :=
  ∀ (x : Reg) (s : State),
    ((s.readV x).toNat ≤ 15 ∨ s.params.keyIndex = .lowNibble →
      SkipsIf (.skp x) s (s.key ((s.readV x).toNat % 16) = true) ∧
      SkipsIf (.sknp x) s (s.key ((s.readV x).toNat % 16) = false)) ∧
    (15 < (s.readV x).toNat → s.params.keyIndex = .fault →
      Raises (.skp x) s .keyIndex ∧ Raises (.sknp x) s .keyIndex)

/-! ## Loads, arithmetic, logic, random (spec/43_alu.md) -/

/-- R89 to R94: the loads, the flagless addition and the logic instructions; VF keeps its value unless it is Vx. -/
def Obligations.LoadsAndLogicSetVx : Prop :=
  ∀ (x y : Reg) (kk : Byte) (s : State),
    SetsV (.ldImm x kk) s x kk.toNat ∧
    SetsV (.addImm x kk) s x (((s.readV x).toNat + kk.toNat) % 256) ∧
    SetsV (.ldReg x y) s x (s.readV y).toNat ∧
    SetsV (.orReg x y) s x ((s.readV x).toNat ||| (s.readV y).toNat) ∧
    SetsV (.andReg x y) s x ((s.readV x).toNat &&& (s.readV y).toNat) ∧
    SetsV (.xorReg x y) s x ((s.readV x).toNat ^^^ (s.readV y).toNat)

/-- R88, R95 to R99: the five flag-writing instructions, VF as an operand included, under both values of
`P_VF_ORDER`. -/
def Obligations.FlaggedArithmetic : Prop :=
  ∀ (x y : Reg) (s : State),
    WritesFlagged (.addReg x y) s x y (fun a b => if a + b > 255 then 1 else 0) (fun a b => (a + b) % 256) ∧
    WritesFlagged (.subReg x y) s x y (fun a b => if a > b then 1 else 0) (fun a b => (a + 256 - b) % 256) ∧
    WritesFlagged (.shr x y) s x y (fun a _ => a % 2) (fun a _ => a / 2) ∧
    WritesFlagged (.subnReg x y) s x y (fun a b => if b > a then 1 else 0) (fun a b => (b + 256 - a) % 256) ∧
    WritesFlagged (.shl x y) s x y (fun a _ => a / 128) (fun a _ => a * 2 % 256)

/-- R88: "When neither x nor y is F the two readings give the same state." -/
def Obligations.VfOrdersAgreeWithoutVfOperand : Prop :=
  ∀ (x y : Reg) (s : State), x ≠ 0xF#4 → y ≠ 0xF#4 →
    ∀ i ∈ [Instr.addReg x y, .subReg x y, .shr x y, .subnReg x y, .shl x y],
      ∃ t u, exec i { s with params := { s.params with vfOrder := .sequential } } = .next t ∧
        exec i { s with params := { s.params with vfOrder := .snapshot } } = .next u ∧
        u = { t with params := u.params }

/-- R100, R101: RND advances the seed once and writes the new seed's byte, masked with kk. -/
def Obligations.RndDrawsOneByte : Prop :=
  ∀ (x : Reg) (kk : Byte) (s : State), ∃ t, exec (.rnd x kk) s = .next t ∧
    t.seed.toNat = (s.seed.toNat * 214013 + 2531011) % 2 ^ 32 ∧
    (s.params.prngShift = .shift16 → (t.readV x).toNat = (t.seed.toNat / 2 ^ 16 % 256) &&& kk.toNat) ∧
    (s.params.prngShift = .shift24 → (t.readV x).toNat = (t.seed.toNat / 2 ^ 24 % 256) &&& kk.toNat) ∧
    (∀ r : Reg, r ≠ x → t.readV r = s.readV r) ∧
    t = { s with v := t.v, seed := t.seed } ∧ SameMemory s t

/-! ## Index and memory (spec/44_index_memory.md) -/

/-- R36: the k-th byte of an access that starts at I is at (I + k) mod 4096. -/
def Obligations.EffectiveAddressesWrap : Prop :=
  ∀ (s : State) (k : Nat), (s.memAddr k).toNat = (s.i.toNat + k) % 4096

/-- R102 to R104: LD I, ADD I and LD F set I and nothing else; VF is not written. -/
def Obligations.IndexInstructionsSetI : Prop :=
  ∀ (nnn : Addr) (x : Reg) (s : State),
    SetsI (.ldI nnn) s nnn.toNat ∧
    SetsI (.addI x) s ((s.i.toNat + (s.readV x).toNat) % 4096) ∧
    SetsI (.ldF x) s ((s.readV x).toNat * 5 % 4096)

/-- R105: LD B stores the three decimal digits at I, I + 1, I + 2 and changes no other byte; I is unchanged. -/
def Obligations.BcdStoresDigits : Prop :=
  ∀ (x : Reg) (s : State), s.MemOk → ∃ t, exec (.ldB x) s = .next t ∧
    (t.readByte (s.memAddr 0)).toNat = (s.readV x).toNat / 100 ∧
    (t.readByte (s.memAddr 1)).toNat = (s.readV x).toNat / 10 % 10 ∧
    (t.readByte (s.memAddr 2)).toNat = (s.readV x).toNat % 10 ∧
    OnlyMemAt (fun a => ∃ k < 3, a = s.memAddr k) s t

/-- R106: LD [I], Vx stores V0 to Vx from I on and changes no other byte; I is unchanged. -/
def Obligations.BlockStoreWritesRegisters : Prop :=
  ∀ (x : Reg) (s : State), s.MemOk → ∃ t, exec (.storeRegs x) s = .next t ∧
    (∀ r : Reg, r.toNat ≤ x.toNat → t.readByte (s.memAddr r.toNat) = s.readV r) ∧
    OnlyMemAt (fun a => ∃ k ≤ x.toNat, a = s.memAddr k) s t

/-- R107: LD Vx, [I] loads V0 to Vx from I on and leaves the other registers; I is unchanged. -/
def Obligations.BlockLoadReadsRegisters : Prop :=
  ∀ (x : Reg) (s : State), ∃ t, exec (.loadRegs x) s = .next t ∧
    (∀ r : Reg, r.toNat ≤ x.toNat → t.readV r = s.readByte (s.memAddr r.toNat)) ∧
    (∀ r : Reg, x.toNat < r.toNat → t.readV r = s.readV r) ∧ OnlyV s t

/-! ## Display (spec/45_display.md) -/

/-- R108: CLS turns every pixel off and marks a draw pending; nothing else changes. -/
def Obligations.ClsClearsEveryPixel : Prop :=
  ∀ s : State, ∃ t, exec .cls s = .next t ∧ (∀ q < 2048, t.pixel q = false) ∧ t.drawPending = true ∧
    t = { s with fb := t.fb, drawPending := t.drawPending } ∧ SameMemory s t

/-- R110: where a pixel is placed, for each value of `P_DRAW_ADDR` and `P_WRAP`. -/
def Obligations.PlaceFollowsRule : Prop :=
  ∀ (p : Params) (px py : Nat),
    (p.drawAddr = .coordinate → p.wrap = true → place p px py = some (py % 32 * 64 + px % 64)) ∧
    (p.drawAddr = .coordinate → p.wrap = false →
      place p px py = if px ≥ 64 ∨ py ≥ 32 then none else some (py * 64 + px)) ∧
    (p.drawAddr = .linear → p.wrap = true → place p px py = some ((py * 64 + px) % 2048)) ∧
    (p.drawAddr = .linear → p.wrap = false →
      place p px py = if py * 64 + px ≥ 2048 then none else some (py * 64 + px))

/-- R109: for every operand, VF included, and under both values of `P_VF_ORDER`, DRW leaves the pixels and the VF that
visiting the sprite's bits in order gives, marks a draw pending, and changes nothing else. That bit 7 is the leftmost
column is "the conventional CHIP-8 order [from general knowledge, not in source]" (R109, log entry 12). -/
def Obligations.DrwVisitsSpriteInOrder : Prop :=
  ∀ (x y : Reg) (n : Nibble) (s : State), ∃ t, exec (.drw x y n) s = .next t ∧
    (let d := (spriteOrder n.toNat).foldl (spriteVisit s x y) (s.pixel, 0)
     (∀ q < 2048, t.pixel q = d.1 q) ∧ (t.readV 0xF#4).toNat = d.2) ∧
    t.drawPending = true ∧ (∀ r : Reg, r ≠ 0xF#4 → t.readV r = s.readV r) ∧
    t = { s with v := t.v, fb := t.fb, drawPending := t.drawPending } ∧ SameMemory s t

/-- R109 to R111: where VF is no operand, or under `snapshot`, a DRW flips exactly the pixels a set sprite bit lands on,
each once, and VF is 1 exactly if one of them was on (bit order: log entry 12). -/
def Obligations.DrwFlipsCoveredPixels : Prop :=
  ∀ (x y : Reg) (n : Nibble) (s t : State), (x ≠ 0xF#4 ∧ y ≠ 0xF#4) ∨ s.params.vfOrder = .snapshot →
    exec (.drw x y n) s = .next t →
    (∀ q < 2048, (SpriteCovers s x y n q → t.pixel q = !s.pixel q) ∧
      (¬ SpriteCovers s x y n q → t.pixel q = s.pixel q)) ∧
    ((∃ q, SpriteCovers s x y n q ∧ s.pixel q = true) → t.readV 0xF#4 = 1#8) ∧
    ((∀ q, SpriteCovers s x y n q → s.pixel q = false) → t.readV 0xF#4 = 0#8)

/-- R111: the same draw twice restores every pixel, and the second finds a collision if the sprite covered a pixel that
was off before the first (log entry 18; bit order: log entry 12). -/
def Obligations.DrawingTwiceRestores : Prop :=
  ∀ (x y : Reg) (n : Nibble) (s t u : State), x ≠ 0xF#4 → y ≠ 0xF#4 →
    exec (.drw x y n) s = .next t → exec (.drw x y n) t = .next u →
    (∀ q < 2048, u.pixel q = s.pixel q) ∧
    ((∃ q, SpriteCovers s x y n q ∧ s.pixel q = false) → u.readV 0xF#4 = 1#8)

/-! ## Timers and key wait (spec/46_timers_input.md) -/

/-- R112 to R114: LD Vx, DT reads the delay timer; LD DT, Vx and LD ST, Vx write a timer and nothing else. -/
def Obligations.TimerTransfers : Prop :=
  ∀ (x : Reg) (s : State),
    SetsV (.ldVxDt x) s x s.dt.toNat ∧
    (∃ t, exec (.ldDtVx x) s = .next t ∧ t.dt = s.readV x ∧ t = { s with dt := t.dt } ∧ SameMemory s t) ∧
    ∃ t, exec (.ldStVx x) s = .next t ∧ t.st = s.readV x ∧ t = { s with st := t.st } ∧ SameMemory s t

/-- R115: Fx0A does nothing under `nop`; under `waitKey` Vx gets the smallest pressed key, and with no key pressed PC goes
back to the instruction (`wait_key` is "from general knowledge, not in source": log entry 14). -/
def Obligations.KeyWait : Prop :=
  ∀ (x : Reg) (s : State),
    (s.params.fx0a = .nop → exec (.ldVxK x) s = .next s) ∧
    (s.params.fx0a = .waitKey → ∀ k < 16, s.key k = true → (∀ j < k, s.key j = false) → SetsV (.ldVxK x) s x k) ∧
    (s.params.fx0a = .waitKey → (∀ k < 16, s.key k = false) →
      ∃ t, exec (.ldVxK x) s = .next t ∧ t.pc + 2#12 = s.pc ∧ OnlyPc s t)

/-! ## The tick and its notifications (spec/40_cycle.md, spec/60_exceptions.md) -/

/-- R65, R67, R69: a tick clears the draw-pending flag, runs steps of the core until `clock_rate` of them, a halt or
(under vsync) a pending draw ends the batch and not before, then lowers each nonzero timer by 1, then notifies. -/
def Obligations.TickRunsABatchThenTimers : Prop :=
  ∀ s : State, ∃ (k : Nat) (u : State) (notes : List Notification),
    k ≤ s.clockRate.toNat ∧
    core.run k { s with drawPending := false } = .next u ∧
    (k = s.clockRate.toNat ∨ u.halted = true ∨ (u.vsync = true ∧ u.drawPending = true)) ∧
    (∀ j < k, ∃ w : State, core.run j { s with drawPending := false } = .next w ∧
      w.halted = false ∧ ¬ (w.vsync = true ∧ w.drawPending = true)) ∧
    ∃ t : State, tick s = .next (t, notes) ∧ t.dt.toNat = u.dt.toNat - 1 ∧ t.st.toNat = u.st.toNat - 1 ∧
      t.soundLatch = decide (0 < t.st.toNat) ∧
      notes = (if t.drawPending = true then [Notification.frameReady t.fb] else []) ++
        (if t.soundLatch = s.soundLatch then [] else [Notification.soundStateChanged t.soundLatch]) ∧
      t = { u with dt := t.dt, st := t.st, soundLatch := t.soundLatch }

/-- R68 and R69: with a clock rate of 0, or on a halted core, a tick runs no cycle and still lowers the timers. -/
def Obligations.TickWithoutCyclesLowersTimers : Prop :=
  ∀ s : State, s.clockRate = 0#32 ∨ s.halted = true →
    ∃ (t : State) (notes : List Notification), tick s = .next (t, notes) ∧
      t.dt.toNat = s.dt.toNat - 1 ∧ t.st.toNat = s.st.toNat - 1 ∧ t.drawPending = false ∧
      t = { s with drawPending := t.drawPending, dt := t.dt, st := t.st, soundLatch := t.soundLatch }

/-- R130: after the timers a tick raises FrameReady with the pixels if a draw is pending, then SoundStateChanged if the
sound-active predicate differs from the latch, which then holds it. -/
def Obligations.TickRaisesNotifications : Prop :=
  ∀ (s t : State) (notes : List Notification), tick s = .next (t, notes) →
    t.soundLatch = decide (0 < t.st.toNat) ∧
    notes = (if t.drawPending = true then [Notification.frameReady t.fb] else []) ++
      (if decide (0 < t.st.toNat) = s.soundLatch then []
        else [Notification.soundStateChanged (decide (0 < t.st.toNat))])

/-! ## The host's operations (spec/60_exceptions.md, spec/70_reset_and_hazards.md) -/

/-- R141: Initialize gives every element its reset value, installs the font, sets PC to 0x200 and the configuration to
its defaults. -/
def Obligations.InitializeGivesResetValues : Prop :=
  ∀ s : State, ∃ t : State, perform .initCore s = .next { state := t, reply := .bool true, notes := [] } ∧
    (∀ r : Reg, t.readV r = 0#8) ∧ t.i = 0#12 ∧ t.pc = 0x200#12 ∧ t.sp = 0#12 ∧ t.dt = 0#8 ∧ t.st = 0#8 ∧
    (∀ k < 16, t.readStack k = 0#12) ∧
    (∀ a : Addr, (h : a.toNat < 80) → t.readByte a = s.params.font[a.toNat]) ∧
    (∀ a : Addr, 80 ≤ a.toNat → t.readByte a = 0#8) ∧
    (∀ q < 2048, t.pixel q = false) ∧ t.drawPending = false ∧ (∀ k < 16, t.key k = false) ∧ t.op = 0#16 ∧
    t.seed = 0#32 ∧ t.clockRate = s.params.defaultClockRate ∧ t.vsync = s.params.defaultVsync ∧
    t.halted = false ∧ t.faultCode = .none ∧ t.faultPc = 0#12 ∧ t.soundLatch = false ∧ t.params = s.params

/-- R142: LoadProgram with a length from 1 to 3584 resets the core fully and copies the program to 0x200; the seed and the
configuration keep their values. Any other length fails and changes no state. -/
def Obligations.LoadProgramInstallsOrRejects : Prop :=
  ∀ (s : State) (bytes : List Byte) (length : Nat),
    (length = 0 ∨ length > 3584 →
      perform (.loadProgram bytes length) s = .next { state := s, reply := .bool false, notes := [] }) ∧
    (0 < length → length ≤ 3584 → length ≤ bytes.length →
      ∃ t : State, perform (.loadProgram bytes length) s = .next { state := t, reply := .bool true, notes := [] } ∧
        (∀ a : Addr, (h : a.toNat < 80) → t.readByte a = s.params.font[a.toNat]) ∧
        (∀ j < length, t.readByte (BitVec.ofNat 12 (0x200 + j)) = bytes[j]?.getD 0#8) ∧
        (∀ a : Addr, 80 ≤ a.toNat → (a.toNat < 0x200 ∨ 0x200 + length ≤ a.toNat) → t.readByte a = 0#8) ∧
        t = { State.initial s.params with
          mem := t.mem, seed := s.seed, clockRate := s.clockRate, vsync := s.vsync })

/-- R143: Reset clears RAM from 0x050 on and keeps the font region, clears the rest of the core and sets PC to 0x200;
the seed and the configuration keep their values. -/
def Obligations.PartialResetKeepsFontRegion : Prop :=
  ∀ s : State, ∃ t : State, perform .partialReset s = .next { state := t, reply := .unit, notes := [] } ∧
    (∀ a : Addr, a.toNat < 0x050 → t.readByte a = s.readByte a) ∧
    (∀ a : Addr, 0x050 ≤ a.toNat → t.readByte a = 0#8) ∧
    t = { State.initial s.params with mem := t.mem, seed := s.seed, clockRate := s.clockRate, vsync := s.vsync }

/-- R125, R129: SetKey writes one of the 16 keys or, out of range, nothing; the configuration is read and written. -/
def Obligations.KeysAndConfigurationAreSet : Prop :=
  ∀ (s : State) (k n : Nat) (b : Bool),
    (k ≤ 15 → ∃ t : State, perform (.setKey k b) s = .next { state := t, reply := .unit, notes := [] } ∧
      t.key k = b ∧ (∀ j < 16, j ≠ k → t.key j = s.key j) ∧ t = { s with keys := t.keys }) ∧
    (15 < k → perform (.setKey k b) s = .next { state := s, reply := .unit, notes := [] }) ∧
    perform .getClockRate s = .next { state := s, reply := .clockRate s.clockRate, notes := [] } ∧
    (∃ t : State, perform (.setClockRate n) s = .next { state := t, reply := .unit, notes := [] } ∧
      t.clockRate.toNat = n % 2 ^ 32 ∧ t = { s with clockRate := t.clockRate }) ∧
    perform (.setVsync b) s = .next { state := { s with vsync := b }, reply := .unit, notes := [] }

/-- R126 to R128: the queries answer the draw-pending flag, ST > 0 and a pixel, and change no state; GetPixel out of its
ranges is refused. -/
def Obligations.QueriesAnswerAndChangeNothing : Prop :=
  ∀ (s : State) (x y : Nat),
    perform .shouldPresentFrame s = .next { state := s, reply := .bool s.drawPending, notes := [] } ∧
    perform .isSoundActive s = .next { state := s, reply := .bool (decide (0 < s.st.toNat)), notes := [] } ∧
    (x ≤ 63 → y ≤ 31 →
      perform (.getPixel x y) s = .next { state := s, reply := .bool (s.pixel (y * 64 + x)), notes := [] }) ∧
    (63 < x ∨ 31 < y → perform (.getPixel x y) s = .refused .getPixelOutOfRange)

/-- R135: LoadState takes every field of the record, masking I, PC, SP and the stack entries to 12 bits, keeps RAM below
0x200, and clears the keys and the fault status. -/
def Obligations.LoadStateTakesTheRecord : Prop :=
  ∀ (s : State) (rec : SaveRecord), ∃ t : State,
    perform (.loadState rec) s = .next { state := t, reply := .bool true, notes := [] } ∧
    t.i.toNat = rec.i % 4096 ∧ t.pc.toNat = rec.pc % 4096 ∧ t.sp.toNat = rec.sp % 4096 ∧
    (∀ (k : Nat) (h : k < 16), (t.readStack k).toNat = rec.stack[k] % 4096) ∧
    (∀ a : Addr, a.toNat < 0x200 → t.readByte a = s.readByte a) ∧
    (∀ (j : Nat) (h : j < 3584), t.readByte (BitVec.ofNat 12 (0x200 + j)) = rec.ram[j]) ∧
    (∀ k < 16, t.key k = false) ∧
    t = { s with
      seed := rec.seed, v := rec.v, i := t.i, pc := t.pc, sp := t.sp, dt := rec.dt, st := rec.st, stack := t.stack,
      mem := t.mem, fb := rec.fb, keys := t.keys, halted := false, faultCode := .none, faultPc := 0#12 }

/-- R133, R136: SaveState changes no state, and its record loaded into a core whose RAM below 0x200 matches reproduces
every element of the record, the whole RAM included, and clears the keys. -/
def Obligations.SaveThenLoadReproduces : Prop :=
  ∀ s u : State, (∀ a : Addr, a.toNat < 0x200 → u.readByte a = s.readByte a) →
    ∃ (rec : SaveRecord) (t : State),
      perform .saveState s = .next { state := s, reply := .record rec, notes := [] } ∧
      perform (.loadState rec) u = .next { state := t, reply := .bool true, notes := [] } ∧
      (∀ a : Addr, t.readByte a = s.readByte a) ∧ (∀ k < 16, t.key k = false) ∧
      t = { u with
        seed := s.seed, v := s.v, i := s.i, pc := s.pc, sp := s.sp, dt := s.dt, st := s.st, stack := s.stack,
        mem := t.mem, fb := s.fb, keys := t.keys, halted := false, faultCode := .none, faultPc := 0#12 }

/-- R149: a sequence of operations without a reset and without LoadState that ends with `halted = 0` has not faulted at
any point. -/
def Obligations.UnhaltedRunNeverFaulted : Prop :=
  ∀ (before after : List HostOp) (s t : State) (notes : List Notification),
    (∀ o ∈ before ++ after, o ≠ .initCore ∧ (∀ bytes length, o ≠ .loadProgram bytes length) ∧ o ≠ .partialReset ∧
      ∀ rec, o ≠ .loadState rec) →
    performAll (before ++ after) s = .next (t, notes) → ¬ t.HasFaulted →
    ∃ (u : State) (seen : List Notification), performAll before s = .next (u, seen) ∧ ¬ u.HasFaulted

/-- R149: a run is Initialize, LoadProgram of the program returning true (R142), then a sequence of SetKey, configuration,
query and Tick operations, and its end is the state after the last of them; a program LoadProgram rejects, or another
operation in the sequence, makes no run. The model's choices: the debug readout counts as a query (R137, log entry 6), and
the configuration that R144 allows before LoadProgram comes after it (log entry 22). -/
def Obligations.RunIsALaunchThenOperations : Prop :=
  ∀ (s : State) (prog : List Byte) (ops : List HostOp),
    let allowed := ∀ o ∈ ops, (∃ k b, o = .setKey k b) ∨ o = .getClockRate ∨ (∃ n, o = .setClockRate n) ∨
      (∃ b, o = .setVsync b) ∨ o = .shouldPresentFrame ∨ o = .isSoundActive ∨ (∃ x y, o = .getPixel x y) ∨ o = .tick ∨
      o = .readState
    (0 < prog.length → prog.length ≤ 3584 → allowed →
      ∃ i u : State, perform .initCore s = .next { state := i, reply := .bool true, notes := [] } ∧
        perform (.loadProgram prog prog.length) i = .next { state := u, reply := .bool true, notes := [] } ∧
        hostRun s.params prog ops = some (performAll ops u)) ∧
    (prog.length = 0 ∨ 3584 < prog.length → hostRun s.params prog ops = none) ∧
    (¬ allowed → hostRun s.params prog ops = none)

/-- R149: a run that ends with `halted = 0` has not faulted at any point: it is a run, not faulted, up to each of its
operations. -/
def Obligations.UnhaltedRunIsUnhaltedThroughout : Prop :=
  ∀ (p : Params) (prog : List Byte) (before after : List HostOp) (t : State) (notes : List Notification),
    hostRun p prog (before ++ after) = some (.next (t, notes)) → ¬ t.HasFaulted →
    ∃ (u : State) (seen : List Notification), hostRun p prog before = some (.next (u, seen)) ∧ ¬ u.HasFaulted
end

