-- ==== Sys2Proof/Laws/Decode.lean ====
section
/-! SUPPORT. The fields of an encoded word are the fields it was made from (R49, R51), a word is its four nibbles, and a
word is its two bytes (R38). -/

namespace Sys2Proof

/-! ## Format NNN -/

@[simp] theorem opFamily_encodeNNN (f : Nibble) (a : Addr) : opFamily (encodeNNN f a) = f := by
  refine BitVec.eq_of_getLsbD_eq fun k hk => ?_
  simp only [opFamily, encodeNNN, BitVec.getLsbD_append, BitVec.getLsbD_extractLsb']
  simp [hk]

@[simp] theorem opNNN_encodeNNN (f : Nibble) (a : Addr) : opNNN (encodeNNN f a) = a := by
  refine BitVec.eq_of_getLsbD_eq fun k hk => ?_
  simp only [opNNN, encodeNNN, BitVec.getLsbD_append, BitVec.getLsbD_extractLsb']
  simp [hk]

/-! ## Format XKK -/

@[simp] theorem opFamily_encodeXKK (f : Nibble) (x : Reg) (kk : Byte) : opFamily (encodeXKK f x kk) = f := by
  refine BitVec.eq_of_getLsbD_eq fun k hk => ?_
  have h1 : ¬ 12 + k < 8 := by omega
  have h2 : ¬ 12 + k - 8 < 4 := by omega
  have h3 : 12 + k - 8 - 4 = k := by omega
  simp only [opFamily, encodeXKK, BitVec.getLsbD_append, BitVec.getLsbD_extractLsb']
  simp [hk, h1, h2, h3]

@[simp] theorem opX_encodeXKK (f : Nibble) (x : Reg) (kk : Byte) : opX (encodeXKK f x kk) = x := by
  refine BitVec.eq_of_getLsbD_eq fun k hk => ?_
  have h1 : ¬ 8 + k < 8 := by omega
  simp only [opX, encodeXKK, BitVec.getLsbD_append, BitVec.getLsbD_extractLsb']
  simp [hk]

@[simp] theorem opKK_encodeXKK (f : Nibble) (x : Reg) (kk : Byte) : opKK (encodeXKK f x kk) = kk := by
  refine BitVec.eq_of_getLsbD_eq fun k hk => ?_
  simp only [opKK, encodeXKK, BitVec.getLsbD_append, BitVec.getLsbD_extractLsb']
  simp [hk]

/-! ## Format XYN -/

@[simp] theorem opFamily_encodeXYN (f : Nibble) (x y : Reg) (n : Nibble) : opFamily (encodeXYN f x y n) = f := by
  refine BitVec.eq_of_getLsbD_eq fun k hk => ?_
  have h1 : ¬ 12 + k < 4 := by omega
  have h2 : ¬ 12 + k - 4 < 4 := by omega
  have h3 : ¬ 12 + k - 4 - 4 < 4 := by omega
  have h4 : 12 + k - 4 - 4 - 4 = k := by omega
  simp only [opFamily, encodeXYN, BitVec.getLsbD_append, BitVec.getLsbD_extractLsb']
  simp [hk, h1, h2, h3, h4]

@[simp] theorem opX_encodeXYN (f : Nibble) (x y : Reg) (n : Nibble) : opX (encodeXYN f x y n) = x := by
  refine BitVec.eq_of_getLsbD_eq fun k hk => ?_
  have h1 : ¬ 8 + k < 4 := by omega
  have h2 : ¬ 8 + k - 4 < 4 := by omega
  have h3 : 8 + k - 4 - 4 = k := by omega
  simp only [opX, encodeXYN, BitVec.getLsbD_append, BitVec.getLsbD_extractLsb']
  simp [hk, h1, h2, h3]

@[simp] theorem opY_encodeXYN (f : Nibble) (x y : Reg) (n : Nibble) : opY (encodeXYN f x y n) = y := by
  refine BitVec.eq_of_getLsbD_eq fun k hk => ?_
  simp only [opY, encodeXYN, BitVec.getLsbD_append, BitVec.getLsbD_extractLsb']
  simp [hk]

@[simp] theorem opN_encodeXYN (f : Nibble) (x y : Reg) (n : Nibble) : opN (encodeXYN f x y n) = n := by
  refine BitVec.eq_of_getLsbD_eq fun k hk => ?_
  simp only [opN, encodeXYN, BitVec.getLsbD_append, BitVec.getLsbD_extractLsb']
  simp [hk]

/-! ## A word is its fields -/

/-- A word is its family and `nnn`. -/
theorem encodeNNN_fields (w : Opcode) : encodeNNN (opFamily w) (opNNN w) = w := by
  refine BitVec.eq_of_getLsbD_eq fun k hk => ?_
  simp only [encodeNNN, opFamily, opNNN, BitVec.getLsbD_append, BitVec.getLsbD_extractLsb']
  by_cases h : k < 12
  · simp [h]
  · have h1 : k - 12 < 4 := by omega
    have h2 : 12 + (k - 12) = k := by omega
    simp [h, h1, h2]

/-- A word is its family, `x` and `kk`. -/
theorem encodeXKK_fields (w : Opcode) : encodeXKK (opFamily w) (opX w) (opKK w) = w := by
  refine BitVec.eq_of_getLsbD_eq fun k hk => ?_
  simp only [encodeXKK, opFamily, opX, opKK, BitVec.getLsbD_append, BitVec.getLsbD_extractLsb']
  by_cases h : k < 8
  · simp [h]
  · by_cases h' : k - 8 < 4
    · have h2 : 8 + (k - 8) = k := by omega
      simp [h, h', h2]
    · have h1 : k - 8 - 4 < 4 := by omega
      have h2 : 12 + (k - 8 - 4) = k := by omega
      simp [h, h', h1, h2]

/-- A word is its family, `x`, `y` and `n`. -/
theorem encodeXYN_fields (w : Opcode) : encodeXYN (opFamily w) (opX w) (opY w) (opN w) = w := by
  refine BitVec.eq_of_getLsbD_eq fun k hk => ?_
  simp only [encodeXYN, opFamily, opX, opY, opN, BitVec.getLsbD_append, BitVec.getLsbD_extractLsb']
  by_cases h : k < 4
  · simp [h]
  · by_cases h' : k - 4 < 4
    · have h2 : 4 + (k - 4) = k := by omega
      simp [h, h', h2]
    · by_cases h'' : k - 4 - 4 < 4
      · have h2 : 8 + (k - 4 - 4) = k := by omega
        simp [h, h', h'', h2]
      · have h1 : k - 4 - 4 - 4 < 4 := by omega
        have h2 : 12 + (k - 4 - 4 - 4) = k := by omega
        simp [h, h', h'', h1, h2]

/-- A word is its two bytes, the high one first (R38). -/
@[simp] theorem wordOfBytes_bytes (w : Opcode) : wordOfBytes (highByte w) (lowByte w) = w := by
  refine BitVec.eq_of_getLsbD_eq fun k hk => ?_
  simp only [wordOfBytes, highByte, lowByte, BitVec.getLsbD_append, BitVec.getLsbD_extractLsb']
  by_cases h : k < 8
  · simp [h]
  · have h1 : k - 8 < 8 := by omega
    have h2 : 8 + (k - 8) = k := by omega
    simp [h, h1, h2]

/-- The whole word of a host question of 16 bits. -/
@[simp] theorem tableWord_toNat (w : Opcode) : tableWord 16 w.toNat = w := by
  rw [tableWord, Nat.mod_eq_of_lt w.isLt, BitVec.ofNat_toNat, BitVec.setWidth_eq]

/-- The low byte of a word of format NNN. -/
theorem opKK_encodeNNN (f : Nibble) (a : Addr) : opKK (encodeNNN f a) = a.setWidth 8 := by
  refine BitVec.eq_of_getLsbD_eq fun k hk => ?_
  have h : k < 12 := by omega
  simp only [opKK, encodeNNN, BitVec.getLsbD_append, BitVec.getLsbD_extractLsb']
  simp [hk, h]

/-! ## The dispatch -/

/-- The family the dispatch's last arm leaves is F (R52). -/
theorem nibble_eq_F {f : Nibble} (h0 : f ≠ 0x0#4) (h1 : f ≠ 0x1#4) (h2 : f ≠ 0x2#4) (h3 : f ≠ 0x3#4) (h4 : f ≠ 0x4#4)
    (h5 : f ≠ 0x5#4) (h6 : f ≠ 0x6#4) (h7 : f ≠ 0x7#4) (h8 : f ≠ 0x8#4) (h9 : f ≠ 0x9#4) (ha : f ≠ 0xA#4)
    (hb : f ≠ 0xB#4) (hc : f ≠ 0xC#4) (hd : f ≠ 0xD#4) (he : f ≠ 0xE#4) : f = 0xF#4 := by
  bv_omega

/-- The fields of a word as numbers. -/
theorem toNat_fields (w : Opcode) :
    (opFamily w).toNat = w.toNat / 4096 ∧ (opN w).toNat = w.toNat % 16 ∧ (opKK w).toNat = w.toNat % 256 ∧
      (opNNN w).toNat = w.toNat % 4096 := by
  have := w.isLt
  simp only [opFamily, opN, opKK, opNNN, BitVec.extractLsb'_toNat, Nat.shiftRight_eq_div_pow]
  omega

/-- The decoder looks at nothing but the family-0 and skip parameters. -/
theorem decodeWord_congr {p q : Params} (h0 : p.family0 = q.family0) (hn : p.skipRegN = q.skipRegN) (w : Opcode) :
    decodeWord p w = decodeWord q w := by
  simp only [decodeWord, h0, hn]

end Sys2Proof
end

