-- ==== Sys2Proof/Laws/Host.lean ====
section
/-! SUPPORT. What LoadProgram, a launch and a sequence of host operations can do (R142, R149). -/

namespace Sys2Proof.Machine

/-- LoadProgram of a whole program of legal length (R142). -/
theorem perform_loadProgram_legal {prog : List Byte} (h0 : 0 < prog.length) (h : prog.length ≤ 3584) (s : State) :
    perform (.loadProgram prog prog.length) s = .next { state := s.withProgram prog, reply := .bool true, notes := [] } := by
  simp only [perform, loadProgram, if_neg (show ¬ (prog.length = 0 ∨ prog.length > 3584) by omega), Nat.lt_irrefl, if_false,
    List.take_length, quietly]

/-- LoadProgram of an illegal length is rejected (R142). -/
theorem perform_loadProgram_illegal {n : Nat} (h : n = 0 ∨ n > 3584) (bytes : List Byte) (s : State) :
    perform (.loadProgram bytes n) s = .next { state := s, reply := .bool false, notes := [] } := by
  simp only [perform, loadProgram, if_pos h, quietly]

/-- A launch with a program of legal length gives the state with that program loaded. -/
theorem launch_legal {prog : List Byte} (h0 : 0 < prog.length) (h : prog.length ≤ 3584) (p : Params) :
    launch p prog = some ((State.initial p).withProgram prog) := by
  rw [launch, perform_loadProgram_legal h0 h]

/-- No run starts with a program LoadProgram rejects. -/
theorem launch_illegal {prog : List Byte} (h : prog.length = 0 ∨ prog.length > 3584) (p : Params) :
    launch p prog = none := by
  rw [launch, perform_loadProgram_illegal h]

/-- A clock rate set before a load is the clock rate set after it (R129, R142; log entry 22). -/
theorem State.withProgram_setClockRate (s : State) (n : Nat) (prog : List Byte) :
    (s.setClockRate n).withProgram prog = (s.withProgram prog).setClockRate n := rfl

/-- A vsync flag set before a load is the vsync flag set after it (R129, R142; log entry 22). -/
theorem State.withProgram_setVsync (s : State) (b : Bool) (prog : List Byte) :
    (s.setVsync b).withProgram prog = (s.withProgram prog).setVsync b := rfl

/-- A sequence of operations ends in a state exactly if its first does and the rest do from there; the notifications are
in the order emitted. -/
theorem performAll_cons_eq_next {o : HostOp} {rest : List HostOp} {s t : State} {notes : List Notification} :
    performAll (o :: rest) s = .next (t, notes) ↔
      ∃ r m, perform o s = .next r ∧ performAll rest r.state = .next (t, m) ∧ notes = r.notes ++ m := by
  rw [performAll]
  cases perform o s with
  | next r =>
    simp only [Host.Outcome.next.injEq, exists_and_left, exists_eq_left']
    cases performAll rest r.state with
    | next p =>
      simp only [Host.Outcome.next.injEq, Prod.ext_iff]
      constructor
      · rintro ⟨h1, h2⟩; exact ⟨p.2, ⟨h1, rfl⟩, h2.symm⟩
      · rintro ⟨m, ⟨h1, rfl⟩, rfl⟩; exact ⟨h1, rfl⟩
    | fault e => simp
    | refused e => simp
  | fault e => simp
  | refused e => simp

end Sys2Proof.Machine
end

