-- ==== Sys2Proof/Laws/Memory.lean ====
section
/-! SUPPORT. The laws of memory: read after write, the canonical form kept by every operation, and memories that read
alike being equal. -/

namespace Sys2Proof.Machine

variable {font : Font}

/-! ## The canonical form -/

theorem Memory.wfFrom_cons {lo a : Nat} {b : Byte} {m : Memory} :
    Memory.wfFrom font lo ((a, b) :: m) = true ↔
      lo ≤ a ∧ a < 4096 ∧ b ≠ unlistedByte font a ∧ Memory.wfFrom font (a + 1) m = true := by
  simp [Memory.wfFrom, and_assoc]

theorem Memory.wfFrom_mono {lo hi : Nat} (h : lo ≤ hi) :
    {m : Memory} → Memory.wfFrom font hi m = true → Memory.wfFrom font lo m = true
  | [], _ => rfl
  | (a, b) :: m, hm => by
    rw [Memory.wfFrom_cons] at hm ⊢
    exact ⟨h.trans hm.1, hm.2⟩

/-- Below the first listed address every address reads as unlisted. -/
theorem Memory.read_of_lt {lo a : Nat} (h : a < lo) :
    {m : Memory} → Memory.wfFrom font lo m = true → Memory.read font m a = unlistedByte font a
  | [], _ => rfl
  | (k, b) :: m, hm => by
    rw [Memory.wfFrom_cons] at hm
    have hk : k ≠ a := by omega
    simp only [Memory.read, if_neg hk]
    exact Memory.read_of_lt (by omega) hm.2.2.2

/-- A write keeps the canonical form. -/
theorem Memory.wfFrom_write {lo a : Nat} {b : Byte} (hlo : lo ≤ a) (ha : a < 4096) :
    {m : Memory} → Memory.wfFrom font lo m = true → Memory.wfFrom font lo (Memory.write font m a b) = true
  | [], _ => by
    simp only [Memory.write]
    split
    · rfl
    · rename_i hb
      exact Memory.wfFrom_cons.2 ⟨hlo, ha, hb, rfl⟩
  | (k, c) :: m, hm => by
    rw [Memory.wfFrom_cons] at hm
    obtain ⟨hk, hk', hc, hm⟩ := hm
    simp only [Memory.write]
    split
    · exact Memory.wfFrom_cons.2 ⟨hk, hk', hc, Memory.wfFrom_write (by omega) ha hm⟩
    · have tail : Memory.wfFrom font (a + 1) (if k = a then m else (k, c) :: m) = true := by
        split
        · rename_i hka; subst hka; exact hm
        · exact Memory.wfFrom_cons.2 ⟨by omega, hk', hc, hm⟩
      split
      · exact Memory.wfFrom_mono (by omega) tail
      · rename_i hb
        exact Memory.wfFrom_cons.2 ⟨hlo, ha, hb, tail⟩

/-- The write of one byte keeps the canonical form of the whole memory. -/
theorem Memory.wf_write {m : Memory} {a : Nat} {b : Byte} (ha : a < 4096) (hm : Memory.wf font m = true) :
    Memory.wf font (Memory.write font m a b) = true :=
  Memory.wfFrom_write (Nat.zero_le a) ha hm

/-! ## Read after write (R35, R44) -/

theorem Memory.read_writeFrom {lo a c : Nat} {b : Byte} :
    {m : Memory} → Memory.wfFrom font lo m = true →
      Memory.read font (Memory.write font m a b) c = if c = a then b else Memory.read font m c
  | [], _ => by
    simp only [Memory.write]
    split <;> rename_i hb <;> simp only [Memory.read] <;> split <;> simp_all
    intro h; omega
  | (k, d) :: m, hm => by
    have hm' := hm
    rw [Memory.wfFrom_cons] at hm'
    obtain ⟨-, -, -, hm'⟩ := hm'
    simp only [Memory.write]
    split
    · rename_i hka
      simp only [Memory.read]
      rw [Memory.read_writeFrom hm']
      by_cases hkc : k = c
      · subst hkc; rw [if_pos rfl, if_pos rfl, if_neg (by omega)]
      · rw [if_neg hkc, if_neg hkc]
    · rename_i hka
      have tail : Memory.read font (if k = a then m else (k, d) :: m) c =
          if c = a then unlistedByte font a else Memory.read font ((k, d) :: m) c := by
        by_cases hk : k = a
        · subst hk
          rw [if_pos rfl]
          by_cases hc : c = k
          · subst hc
            rw [if_pos rfl, Memory.read_of_lt (Nat.lt_succ_self c) hm']
          · rw [if_neg hc, Memory.read, if_neg (Ne.symm hc)]
        · rw [if_neg hk]
          by_cases hc : c = a
          · subst hc
            rw [if_pos rfl, Memory.read, if_neg hk, Memory.read_of_lt (by omega) hm']
          · rw [if_neg hc]
      split
      · rename_i hb
        rw [tail, hb]
      · by_cases hc : a = c
        · subst hc; rw [Memory.read, if_pos rfl, if_pos rfl]
        · rw [Memory.read, if_neg hc, tail, if_neg (Ne.symm hc), if_neg (Ne.symm hc)]

/-- A read gives the byte last written there, and every other address reads as before (R35, R44). -/
theorem Memory.read_write {m : Memory} {a c : Nat} {b : Byte} (hm : Memory.wf font m = true) :
    Memory.read font (Memory.write font m a b) c = if c = a then b else Memory.read font m c :=
  Memory.read_writeFrom hm

/-! ## The bulk operations of the resets and of LoadState -/

theorem Memory.read_below {hi a : Nat} {m : Memory} :
    Memory.read font (Memory.below hi m) a = if a < hi then Memory.read font m a else unlistedByte font a := by
  induction m with
  | nil => simp [Memory.below, Memory.read]
  | cons c m ih =>
    obtain ⟨k, b⟩ := c
    simp only [Memory.below, List.filter_cons] at ih ⊢
    by_cases hk : k < hi
    · simp only [hk, decide_true, if_true, Memory.read, ih]
      split <;> split <;> first | rfl | omega
    · simp only [hk, decide_false, Bool.false_eq_true, if_false, ih, Memory.read]
      by_cases ha : a < hi
      · rw [if_pos ha, if_pos ha, if_neg (by omega)]
      · rw [if_neg ha, if_neg ha]

theorem Memory.wfFrom_below {lo hi : Nat} {m : Memory} (hm : Memory.wfFrom font lo m = true) :
    Memory.wfFrom font lo (Memory.below hi m) = true := by
  induction m generalizing lo with
  | nil => rfl
  | cons c m ih =>
    obtain ⟨k, b⟩ := c
    rw [Memory.wfFrom_cons] at hm
    obtain ⟨h1, h2, h3, h4⟩ := hm
    simp only [Memory.below, List.filter_cons] at ih ⊢
    by_cases hk : k < hi
    · simp only [hk, decide_true, if_true]
      exact Memory.wfFrom_cons.2 ⟨h1, h2, h3, ih h4⟩
    · simp only [hk, decide_false, Bool.false_eq_true, if_false]
      exact Memory.wfFrom_mono (by omega) (ih h4)

theorem Memory.read_image {a c : Nat} {bs : List Byte} :
    Memory.read font (Memory.image font a bs) c =
      if a ≤ c then (bs[c - a]?).getD (unlistedByte font c) else unlistedByte font c := by
  induction bs generalizing a with
  | nil => simp [Memory.image, Memory.read]
  | cons b bs ih =>
    have key : (if a = c then b else Memory.read font (Memory.image font (a + 1) bs) c) =
        if a ≤ c then ((b :: bs)[c - a]?).getD (unlistedByte font c) else unlistedByte font c := by
      rw [ih]
      by_cases h : a = c
      · subst h; simp
      · by_cases h' : a ≤ c
        · rw [if_neg h, if_pos (by omega), if_pos h', show c - a = (c - (a + 1)) + 1 by omega,
            List.getElem?_cons_succ]
        · rw [if_neg h, if_neg (by omega), if_neg h']
    rw [← key, Memory.image]
    split
    · rename_i hb
      by_cases h : a = c
      · subst h; rw [if_pos rfl, ih, if_neg (by omega), hb]
      · rw [if_neg h]
    · rw [Memory.read]

theorem Memory.wfFrom_image {a : Nat} {bs : List Byte} (h : a + bs.length ≤ 4096) :
    Memory.wfFrom font a (Memory.image font a bs) = true := by
  induction bs generalizing a with
  | nil => rfl
  | cons b bs ih =>
    simp only [List.length_cons] at h
    have ih := ih (a := a + 1) (by omega)
    rw [Memory.image]
    split
    · exact Memory.wfFrom_mono (by omega) ih
    · rename_i hb
      exact Memory.wfFrom_cons.2 ⟨le_refl a, by omega, hb, ih⟩

/-- A memory cut off at `hi` followed by one that starts at `hi` keeps the canonical form. -/
theorem Memory.wfFrom_below_append {lo hi : Nat} {m n : Memory} (hlo : lo ≤ hi)
    (hm : Memory.wfFrom font lo m = true) (hn : Memory.wfFrom font hi n = true) :
    Memory.wfFrom font lo (Memory.below hi m ++ n) = true := by
  induction m generalizing lo with
  | nil => exact Memory.wfFrom_mono hlo hn
  | cons c m ih =>
    obtain ⟨k, b⟩ := c
    rw [Memory.wfFrom_cons] at hm
    obtain ⟨h1, h2, h3, h4⟩ := hm
    simp only [Memory.below, List.filter_cons] at ih ⊢
    by_cases hk : k < hi
    · simp only [hk, decide_true, if_true, List.cons_append]
      exact Memory.wfFrom_cons.2 ⟨h1, h2, h3, ih (by omega) h4⟩
    · simp only [hk, decide_false, Bool.false_eq_true, if_false]
      have hcut : Memory.below hi m = [] := by
        refine List.filter_eq_nil_iff.2 fun c hc => ?_
        have : ∀ {l : Nat} {m : Memory}, Memory.wfFrom font l m = true → ∀ c ∈ m, l ≤ c.1 := by
          intro l m
          induction m generalizing l with
          | nil => simp
          | cons d m ihd =>
            intro hw c hc
            obtain ⟨q, e⟩ := d
            rw [Memory.wfFrom_cons] at hw
            rcases List.mem_cons.1 hc with rfl | hc
            · exact hw.1
            · have := ihd hw.2.2.2 c hc; omega
        have := this h4 c hc
        simp; omega
      simp only [Memory.below] at hcut
      rw [hcut]
      exact Memory.wfFrom_mono hlo hn

/-- A read of a memory cut off at `hi` followed by one that starts at `hi`. -/
theorem Memory.read_below_append {hi a : Nat} {m n : Memory} (hn : Memory.wfFrom font hi n = true) :
    Memory.read font (Memory.below hi m ++ n) a =
      if a < hi then Memory.read font m a else Memory.read font n a := by
  induction m with
  | nil =>
    simp only [Memory.below, List.filter_nil, List.nil_append, Memory.read]
    split
    · rename_i h; exact Memory.read_of_lt h hn
    · rfl
  | cons c m ih =>
    obtain ⟨k, b⟩ := c
    simp only [Memory.below, List.filter_cons] at ih ⊢
    by_cases hk : k < hi
    · simp only [hk, decide_true, if_true, List.cons_append, Memory.read, ih]
      split <;> split <;> first | rfl | omega
    · simp only [hk, decide_false, Bool.false_eq_true, if_false, ih, Memory.read]
      by_cases ha : a < hi
      · rw [if_pos ha, if_pos ha, if_neg (by omega)]
      · rw [if_neg ha, if_neg ha]

/-! ## Equal readings, equal memories -/

theorem Memory.eq_of_read_from {lo : Nat} : {m n : Memory} → Memory.wfFrom font lo m = true →
    Memory.wfFrom font lo n = true → (∀ a < 4096, Memory.read font m a = Memory.read font n a) → m = n
  | [], [], _, _, _ => rfl
  | [], (k, b) :: n, _, hn, h => by
    rw [Memory.wfFrom_cons] at hn
    have := h k hn.2.1
    simp only [Memory.read, if_true] at this
    exact absurd this.symm hn.2.2.1
  | (k, b) :: m, [], hm, _, h => by
    rw [Memory.wfFrom_cons] at hm
    have := h k hm.2.1
    simp only [Memory.read, if_true] at this
    exact absurd this hm.2.2.1
  | (k, b) :: m, (l, c) :: n, hm, hn, h => by
    have hm' := Memory.wfFrom_cons.1 hm
    have hn' := Memory.wfFrom_cons.1 hn
    have hkl : k = l := by
      rcases Nat.lt_trichotomy k l with hlt | heq | hgt
      · have hk := h k hm'.2.1
        rw [Memory.read, if_pos rfl, Memory.read, if_neg (by omega),
          Memory.read_of_lt (by omega) hn'.2.2.2] at hk
        exact absurd hk hm'.2.2.1
      · exact heq
      · have hl := h l hn'.2.1
        rw [Memory.read, if_neg (by omega), Memory.read_of_lt (by omega) hm'.2.2.2, Memory.read, if_pos rfl] at hl
        exact absurd hl.symm hn'.2.2.1
    subst hkl
    have hbc : b = c := by
      have := h k hm'.2.1
      simpa only [Memory.read, if_true] using this
    subst hbc
    congr 1
    refine Memory.eq_of_read_from hm'.2.2.2 hn'.2.2.2 fun a ha => ?_
    by_cases hka : k = a
    · subst hka
      rw [Memory.read_of_lt (Nat.lt_succ_self k) hm'.2.2.2, Memory.read_of_lt (Nat.lt_succ_self k) hn'.2.2.2]
    · have := h a ha
      rwa [Memory.read, if_neg hka, Memory.read, if_neg hka] at this

/-- Canonical memories that read alike at every address are the same list. -/
theorem Memory.eq_of_read {m n : Memory} (hm : Memory.wf font m = true) (hn : Memory.wf font n = true)
    (h : ∀ a < 4096, Memory.read font m a = Memory.read font n a) : m = n :=
  Memory.eq_of_read_from hm hn h

end Sys2Proof.Machine
end

