-- ==== Sys2Proof/Laws/State.lean ====
section
/-! SUPPORT. One lemma per field (and per reading) per update of the state, so that no later proof unfolds a record
update; and what a reading gives after the update that writes what it reads. -/

namespace Sys2Proof.Machine

/-! ## writeV -/

@[simp] theorem State.writeV_v (s : State) (x : Reg) (b : Byte) : (s.writeV x b).v = s.v.set x.toNat b x.isLt := rfl
@[simp] theorem State.writeV_i (s : State) (x : Reg) (b : Byte) : (s.writeV x b).i = s.i := rfl
@[simp] theorem State.writeV_pc (s : State) (x : Reg) (b : Byte) : (s.writeV x b).pc = s.pc := rfl
@[simp] theorem State.writeV_sp (s : State) (x : Reg) (b : Byte) : (s.writeV x b).sp = s.sp := rfl
@[simp] theorem State.writeV_dt (s : State) (x : Reg) (b : Byte) : (s.writeV x b).dt = s.dt := rfl
@[simp] theorem State.writeV_st (s : State) (x : Reg) (b : Byte) : (s.writeV x b).st = s.st := rfl
@[simp] theorem State.writeV_stack (s : State) (x : Reg) (b : Byte) : (s.writeV x b).stack = s.stack := rfl
@[simp] theorem State.writeV_mem (s : State) (x : Reg) (b : Byte) : (s.writeV x b).mem = s.mem := rfl
@[simp] theorem State.writeV_fb (s : State) (x : Reg) (b : Byte) : (s.writeV x b).fb = s.fb := rfl
@[simp] theorem State.writeV_drawPending (s : State) (x : Reg) (b : Byte) : (s.writeV x b).drawPending = s.drawPending := rfl
@[simp] theorem State.writeV_keys (s : State) (x : Reg) (b : Byte) : (s.writeV x b).keys = s.keys := rfl
@[simp] theorem State.writeV_op (s : State) (x : Reg) (b : Byte) : (s.writeV x b).op = s.op := rfl
@[simp] theorem State.writeV_seed (s : State) (x : Reg) (b : Byte) : (s.writeV x b).seed = s.seed := rfl
@[simp] theorem State.writeV_clockRate (s : State) (x : Reg) (b : Byte) : (s.writeV x b).clockRate = s.clockRate := rfl
@[simp] theorem State.writeV_vsync (s : State) (x : Reg) (b : Byte) : (s.writeV x b).vsync = s.vsync := rfl
@[simp] theorem State.writeV_halted (s : State) (x : Reg) (b : Byte) : (s.writeV x b).halted = s.halted := rfl
@[simp] theorem State.writeV_faultCode (s : State) (x : Reg) (b : Byte) : (s.writeV x b).faultCode = s.faultCode := rfl
@[simp] theorem State.writeV_faultPc (s : State) (x : Reg) (b : Byte) : (s.writeV x b).faultPc = s.faultPc := rfl
@[simp] theorem State.writeV_soundLatch (s : State) (x : Reg) (b : Byte) : (s.writeV x b).soundLatch = s.soundLatch := rfl
@[simp] theorem State.writeV_params (s : State) (x : Reg) (b : Byte) : (s.writeV x b).params = s.params := rfl
@[simp] theorem State.writeV_readByte (s : State) (x : Reg) (b : Byte) (c : Addr) : (s.writeV x b).readByte c = s.readByte c := rfl
@[simp] theorem State.writeV_pixel (s : State) (x : Reg) (b : Byte) (q : Nat) : (s.writeV x b).pixel q = s.pixel q := rfl
@[simp] theorem State.writeV_key (s : State) (x : Reg) (b : Byte) (k : Nat) : (s.writeV x b).key k = s.key k := rfl
@[simp] theorem State.writeV_readStack (s : State) (x : Reg) (b : Byte) (k : Nat) : (s.writeV x b).readStack k = s.readStack k := rfl
@[simp] theorem State.writeV_memAddr (s : State) (x : Reg) (b : Byte) (k : Nat) : (s.writeV x b).memAddr k = s.memAddr k := rfl
@[simp] theorem State.writeV_fetchWord (s : State) (x : Reg) (b : Byte) : (s.writeV x b).fetchWord = s.fetchWord := rfl

/-! ## setI -/

@[simp] theorem State.setI_v (s : State) (a : Addr) : (s.setI a).v = s.v := rfl
@[simp] theorem State.setI_i (s : State) (a : Addr) : (s.setI a).i = a := rfl
@[simp] theorem State.setI_pc (s : State) (a : Addr) : (s.setI a).pc = s.pc := rfl
@[simp] theorem State.setI_sp (s : State) (a : Addr) : (s.setI a).sp = s.sp := rfl
@[simp] theorem State.setI_dt (s : State) (a : Addr) : (s.setI a).dt = s.dt := rfl
@[simp] theorem State.setI_st (s : State) (a : Addr) : (s.setI a).st = s.st := rfl
@[simp] theorem State.setI_stack (s : State) (a : Addr) : (s.setI a).stack = s.stack := rfl
@[simp] theorem State.setI_mem (s : State) (a : Addr) : (s.setI a).mem = s.mem := rfl
@[simp] theorem State.setI_fb (s : State) (a : Addr) : (s.setI a).fb = s.fb := rfl
@[simp] theorem State.setI_drawPending (s : State) (a : Addr) : (s.setI a).drawPending = s.drawPending := rfl
@[simp] theorem State.setI_keys (s : State) (a : Addr) : (s.setI a).keys = s.keys := rfl
@[simp] theorem State.setI_op (s : State) (a : Addr) : (s.setI a).op = s.op := rfl
@[simp] theorem State.setI_seed (s : State) (a : Addr) : (s.setI a).seed = s.seed := rfl
@[simp] theorem State.setI_clockRate (s : State) (a : Addr) : (s.setI a).clockRate = s.clockRate := rfl
@[simp] theorem State.setI_vsync (s : State) (a : Addr) : (s.setI a).vsync = s.vsync := rfl
@[simp] theorem State.setI_halted (s : State) (a : Addr) : (s.setI a).halted = s.halted := rfl
@[simp] theorem State.setI_faultCode (s : State) (a : Addr) : (s.setI a).faultCode = s.faultCode := rfl
@[simp] theorem State.setI_faultPc (s : State) (a : Addr) : (s.setI a).faultPc = s.faultPc := rfl
@[simp] theorem State.setI_soundLatch (s : State) (a : Addr) : (s.setI a).soundLatch = s.soundLatch := rfl
@[simp] theorem State.setI_params (s : State) (a : Addr) : (s.setI a).params = s.params := rfl
@[simp] theorem State.setI_readV (s : State) (a : Addr) (y : Reg) : (s.setI a).readV y = s.readV y := rfl
@[simp] theorem State.setI_readByte (s : State) (a : Addr) (c : Addr) : (s.setI a).readByte c = s.readByte c := rfl
@[simp] theorem State.setI_pixel (s : State) (a : Addr) (q : Nat) : (s.setI a).pixel q = s.pixel q := rfl
@[simp] theorem State.setI_key (s : State) (a : Addr) (k : Nat) : (s.setI a).key k = s.key k := rfl
@[simp] theorem State.setI_readStack (s : State) (a : Addr) (k : Nat) : (s.setI a).readStack k = s.readStack k := rfl
@[simp] theorem State.setI_fetchWord (s : State) (a : Addr) : (s.setI a).fetchWord = s.fetchWord := rfl

/-! ## setPc -/

@[simp] theorem State.setPc_v (s : State) (a : Addr) : (s.setPc a).v = s.v := rfl
@[simp] theorem State.setPc_i (s : State) (a : Addr) : (s.setPc a).i = s.i := rfl
@[simp] theorem State.setPc_pc (s : State) (a : Addr) : (s.setPc a).pc = a := rfl
@[simp] theorem State.setPc_sp (s : State) (a : Addr) : (s.setPc a).sp = s.sp := rfl
@[simp] theorem State.setPc_dt (s : State) (a : Addr) : (s.setPc a).dt = s.dt := rfl
@[simp] theorem State.setPc_st (s : State) (a : Addr) : (s.setPc a).st = s.st := rfl
@[simp] theorem State.setPc_stack (s : State) (a : Addr) : (s.setPc a).stack = s.stack := rfl
@[simp] theorem State.setPc_mem (s : State) (a : Addr) : (s.setPc a).mem = s.mem := rfl
@[simp] theorem State.setPc_fb (s : State) (a : Addr) : (s.setPc a).fb = s.fb := rfl
@[simp] theorem State.setPc_drawPending (s : State) (a : Addr) : (s.setPc a).drawPending = s.drawPending := rfl
@[simp] theorem State.setPc_keys (s : State) (a : Addr) : (s.setPc a).keys = s.keys := rfl
@[simp] theorem State.setPc_op (s : State) (a : Addr) : (s.setPc a).op = s.op := rfl
@[simp] theorem State.setPc_seed (s : State) (a : Addr) : (s.setPc a).seed = s.seed := rfl
@[simp] theorem State.setPc_clockRate (s : State) (a : Addr) : (s.setPc a).clockRate = s.clockRate := rfl
@[simp] theorem State.setPc_vsync (s : State) (a : Addr) : (s.setPc a).vsync = s.vsync := rfl
@[simp] theorem State.setPc_halted (s : State) (a : Addr) : (s.setPc a).halted = s.halted := rfl
@[simp] theorem State.setPc_faultCode (s : State) (a : Addr) : (s.setPc a).faultCode = s.faultCode := rfl
@[simp] theorem State.setPc_faultPc (s : State) (a : Addr) : (s.setPc a).faultPc = s.faultPc := rfl
@[simp] theorem State.setPc_soundLatch (s : State) (a : Addr) : (s.setPc a).soundLatch = s.soundLatch := rfl
@[simp] theorem State.setPc_params (s : State) (a : Addr) : (s.setPc a).params = s.params := rfl
@[simp] theorem State.setPc_readV (s : State) (a : Addr) (y : Reg) : (s.setPc a).readV y = s.readV y := rfl
@[simp] theorem State.setPc_readByte (s : State) (a : Addr) (c : Addr) : (s.setPc a).readByte c = s.readByte c := rfl
@[simp] theorem State.setPc_pixel (s : State) (a : Addr) (q : Nat) : (s.setPc a).pixel q = s.pixel q := rfl
@[simp] theorem State.setPc_key (s : State) (a : Addr) (k : Nat) : (s.setPc a).key k = s.key k := rfl
@[simp] theorem State.setPc_readStack (s : State) (a : Addr) (k : Nat) : (s.setPc a).readStack k = s.readStack k := rfl
@[simp] theorem State.setPc_memAddr (s : State) (a : Addr) (k : Nat) : (s.setPc a).memAddr k = s.memAddr k := rfl

/-! ## setDt -/

@[simp] theorem State.setDt_v (s : State) (b : Byte) : (s.setDt b).v = s.v := rfl
@[simp] theorem State.setDt_i (s : State) (b : Byte) : (s.setDt b).i = s.i := rfl
@[simp] theorem State.setDt_pc (s : State) (b : Byte) : (s.setDt b).pc = s.pc := rfl
@[simp] theorem State.setDt_sp (s : State) (b : Byte) : (s.setDt b).sp = s.sp := rfl
@[simp] theorem State.setDt_dt (s : State) (b : Byte) : (s.setDt b).dt = b := rfl
@[simp] theorem State.setDt_st (s : State) (b : Byte) : (s.setDt b).st = s.st := rfl
@[simp] theorem State.setDt_stack (s : State) (b : Byte) : (s.setDt b).stack = s.stack := rfl
@[simp] theorem State.setDt_mem (s : State) (b : Byte) : (s.setDt b).mem = s.mem := rfl
@[simp] theorem State.setDt_fb (s : State) (b : Byte) : (s.setDt b).fb = s.fb := rfl
@[simp] theorem State.setDt_drawPending (s : State) (b : Byte) : (s.setDt b).drawPending = s.drawPending := rfl
@[simp] theorem State.setDt_keys (s : State) (b : Byte) : (s.setDt b).keys = s.keys := rfl
@[simp] theorem State.setDt_op (s : State) (b : Byte) : (s.setDt b).op = s.op := rfl
@[simp] theorem State.setDt_seed (s : State) (b : Byte) : (s.setDt b).seed = s.seed := rfl
@[simp] theorem State.setDt_clockRate (s : State) (b : Byte) : (s.setDt b).clockRate = s.clockRate := rfl
@[simp] theorem State.setDt_vsync (s : State) (b : Byte) : (s.setDt b).vsync = s.vsync := rfl
@[simp] theorem State.setDt_halted (s : State) (b : Byte) : (s.setDt b).halted = s.halted := rfl
@[simp] theorem State.setDt_faultCode (s : State) (b : Byte) : (s.setDt b).faultCode = s.faultCode := rfl
@[simp] theorem State.setDt_faultPc (s : State) (b : Byte) : (s.setDt b).faultPc = s.faultPc := rfl
@[simp] theorem State.setDt_soundLatch (s : State) (b : Byte) : (s.setDt b).soundLatch = s.soundLatch := rfl
@[simp] theorem State.setDt_params (s : State) (b : Byte) : (s.setDt b).params = s.params := rfl
@[simp] theorem State.setDt_readV (s : State) (b : Byte) (y : Reg) : (s.setDt b).readV y = s.readV y := rfl
@[simp] theorem State.setDt_readByte (s : State) (b : Byte) (c : Addr) : (s.setDt b).readByte c = s.readByte c := rfl
@[simp] theorem State.setDt_pixel (s : State) (b : Byte) (q : Nat) : (s.setDt b).pixel q = s.pixel q := rfl
@[simp] theorem State.setDt_key (s : State) (b : Byte) (k : Nat) : (s.setDt b).key k = s.key k := rfl
@[simp] theorem State.setDt_readStack (s : State) (b : Byte) (k : Nat) : (s.setDt b).readStack k = s.readStack k := rfl
@[simp] theorem State.setDt_memAddr (s : State) (b : Byte) (k : Nat) : (s.setDt b).memAddr k = s.memAddr k := rfl
@[simp] theorem State.setDt_fetchWord (s : State) (b : Byte) : (s.setDt b).fetchWord = s.fetchWord := rfl

/-! ## setSt -/

@[simp] theorem State.setSt_v (s : State) (b : Byte) : (s.setSt b).v = s.v := rfl
@[simp] theorem State.setSt_i (s : State) (b : Byte) : (s.setSt b).i = s.i := rfl
@[simp] theorem State.setSt_pc (s : State) (b : Byte) : (s.setSt b).pc = s.pc := rfl
@[simp] theorem State.setSt_sp (s : State) (b : Byte) : (s.setSt b).sp = s.sp := rfl
@[simp] theorem State.setSt_dt (s : State) (b : Byte) : (s.setSt b).dt = s.dt := rfl
@[simp] theorem State.setSt_st (s : State) (b : Byte) : (s.setSt b).st = b := rfl
@[simp] theorem State.setSt_stack (s : State) (b : Byte) : (s.setSt b).stack = s.stack := rfl
@[simp] theorem State.setSt_mem (s : State) (b : Byte) : (s.setSt b).mem = s.mem := rfl
@[simp] theorem State.setSt_fb (s : State) (b : Byte) : (s.setSt b).fb = s.fb := rfl
@[simp] theorem State.setSt_drawPending (s : State) (b : Byte) : (s.setSt b).drawPending = s.drawPending := rfl
@[simp] theorem State.setSt_keys (s : State) (b : Byte) : (s.setSt b).keys = s.keys := rfl
@[simp] theorem State.setSt_op (s : State) (b : Byte) : (s.setSt b).op = s.op := rfl
@[simp] theorem State.setSt_seed (s : State) (b : Byte) : (s.setSt b).seed = s.seed := rfl
@[simp] theorem State.setSt_clockRate (s : State) (b : Byte) : (s.setSt b).clockRate = s.clockRate := rfl
@[simp] theorem State.setSt_vsync (s : State) (b : Byte) : (s.setSt b).vsync = s.vsync := rfl
@[simp] theorem State.setSt_halted (s : State) (b : Byte) : (s.setSt b).halted = s.halted := rfl
@[simp] theorem State.setSt_faultCode (s : State) (b : Byte) : (s.setSt b).faultCode = s.faultCode := rfl
@[simp] theorem State.setSt_faultPc (s : State) (b : Byte) : (s.setSt b).faultPc = s.faultPc := rfl
@[simp] theorem State.setSt_soundLatch (s : State) (b : Byte) : (s.setSt b).soundLatch = s.soundLatch := rfl
@[simp] theorem State.setSt_params (s : State) (b : Byte) : (s.setSt b).params = s.params := rfl
@[simp] theorem State.setSt_readV (s : State) (b : Byte) (y : Reg) : (s.setSt b).readV y = s.readV y := rfl
@[simp] theorem State.setSt_readByte (s : State) (b : Byte) (c : Addr) : (s.setSt b).readByte c = s.readByte c := rfl
@[simp] theorem State.setSt_pixel (s : State) (b : Byte) (q : Nat) : (s.setSt b).pixel q = s.pixel q := rfl
@[simp] theorem State.setSt_key (s : State) (b : Byte) (k : Nat) : (s.setSt b).key k = s.key k := rfl
@[simp] theorem State.setSt_readStack (s : State) (b : Byte) (k : Nat) : (s.setSt b).readStack k = s.readStack k := rfl
@[simp] theorem State.setSt_memAddr (s : State) (b : Byte) (k : Nat) : (s.setSt b).memAddr k = s.memAddr k := rfl
@[simp] theorem State.setSt_fetchWord (s : State) (b : Byte) : (s.setSt b).fetchWord = s.fetchWord := rfl

/-! ## push -/

@[simp] theorem State.push_v (s : State) (a : Addr) : (s.push a).v = s.v := rfl
@[simp] theorem State.push_i (s : State) (a : Addr) : (s.push a).i = s.i := rfl
@[simp] theorem State.push_pc (s : State) (a : Addr) : (s.push a).pc = s.pc := rfl
@[simp] theorem State.push_sp (s : State) (a : Addr) : (s.push a).sp = s.sp + 1#12 := rfl
@[simp] theorem State.push_dt (s : State) (a : Addr) : (s.push a).dt = s.dt := rfl
@[simp] theorem State.push_st (s : State) (a : Addr) : (s.push a).st = s.st := rfl
@[simp] theorem State.push_stack (s : State) (a : Addr) : (s.push a).stack = s.stack.setIfInBounds s.sp.toNat a := rfl
@[simp] theorem State.push_mem (s : State) (a : Addr) : (s.push a).mem = s.mem := rfl
@[simp] theorem State.push_fb (s : State) (a : Addr) : (s.push a).fb = s.fb := rfl
@[simp] theorem State.push_drawPending (s : State) (a : Addr) : (s.push a).drawPending = s.drawPending := rfl
@[simp] theorem State.push_keys (s : State) (a : Addr) : (s.push a).keys = s.keys := rfl
@[simp] theorem State.push_op (s : State) (a : Addr) : (s.push a).op = s.op := rfl
@[simp] theorem State.push_seed (s : State) (a : Addr) : (s.push a).seed = s.seed := rfl
@[simp] theorem State.push_clockRate (s : State) (a : Addr) : (s.push a).clockRate = s.clockRate := rfl
@[simp] theorem State.push_vsync (s : State) (a : Addr) : (s.push a).vsync = s.vsync := rfl
@[simp] theorem State.push_halted (s : State) (a : Addr) : (s.push a).halted = s.halted := rfl
@[simp] theorem State.push_faultCode (s : State) (a : Addr) : (s.push a).faultCode = s.faultCode := rfl
@[simp] theorem State.push_faultPc (s : State) (a : Addr) : (s.push a).faultPc = s.faultPc := rfl
@[simp] theorem State.push_soundLatch (s : State) (a : Addr) : (s.push a).soundLatch = s.soundLatch := rfl
@[simp] theorem State.push_params (s : State) (a : Addr) : (s.push a).params = s.params := rfl
@[simp] theorem State.push_readV (s : State) (a : Addr) (y : Reg) : (s.push a).readV y = s.readV y := rfl
@[simp] theorem State.push_readByte (s : State) (a : Addr) (c : Addr) : (s.push a).readByte c = s.readByte c := rfl
@[simp] theorem State.push_pixel (s : State) (a : Addr) (q : Nat) : (s.push a).pixel q = s.pixel q := rfl
@[simp] theorem State.push_key (s : State) (a : Addr) (k : Nat) : (s.push a).key k = s.key k := rfl
@[simp] theorem State.push_memAddr (s : State) (a : Addr) (k : Nat) : (s.push a).memAddr k = s.memAddr k := rfl
@[simp] theorem State.push_fetchWord (s : State) (a : Addr) : (s.push a).fetchWord = s.fetchWord := rfl

/-! ## popPc -/

@[simp] theorem State.popPc_v (s : State) : (s.popPc).v = s.v := rfl
@[simp] theorem State.popPc_i (s : State) : (s.popPc).i = s.i := rfl
@[simp] theorem State.popPc_pc (s : State) : (s.popPc).pc = s.readStack (s.sp - 1#12).toNat := rfl
@[simp] theorem State.popPc_sp (s : State) : (s.popPc).sp = s.sp - 1#12 := rfl
@[simp] theorem State.popPc_dt (s : State) : (s.popPc).dt = s.dt := rfl
@[simp] theorem State.popPc_st (s : State) : (s.popPc).st = s.st := rfl
@[simp] theorem State.popPc_stack (s : State) : (s.popPc).stack = s.stack := rfl
@[simp] theorem State.popPc_mem (s : State) : (s.popPc).mem = s.mem := rfl
@[simp] theorem State.popPc_fb (s : State) : (s.popPc).fb = s.fb := rfl
@[simp] theorem State.popPc_drawPending (s : State) : (s.popPc).drawPending = s.drawPending := rfl
@[simp] theorem State.popPc_keys (s : State) : (s.popPc).keys = s.keys := rfl
@[simp] theorem State.popPc_op (s : State) : (s.popPc).op = s.op := rfl
@[simp] theorem State.popPc_seed (s : State) : (s.popPc).seed = s.seed := rfl
@[simp] theorem State.popPc_clockRate (s : State) : (s.popPc).clockRate = s.clockRate := rfl
@[simp] theorem State.popPc_vsync (s : State) : (s.popPc).vsync = s.vsync := rfl
@[simp] theorem State.popPc_halted (s : State) : (s.popPc).halted = s.halted := rfl
@[simp] theorem State.popPc_faultCode (s : State) : (s.popPc).faultCode = s.faultCode := rfl
@[simp] theorem State.popPc_faultPc (s : State) : (s.popPc).faultPc = s.faultPc := rfl
@[simp] theorem State.popPc_soundLatch (s : State) : (s.popPc).soundLatch = s.soundLatch := rfl
@[simp] theorem State.popPc_params (s : State) : (s.popPc).params = s.params := rfl
@[simp] theorem State.popPc_readV (s : State) (y : Reg) : (s.popPc).readV y = s.readV y := rfl
@[simp] theorem State.popPc_readByte (s : State) (c : Addr) : (s.popPc).readByte c = s.readByte c := rfl
@[simp] theorem State.popPc_pixel (s : State) (q : Nat) : (s.popPc).pixel q = s.pixel q := rfl
@[simp] theorem State.popPc_key (s : State) (k : Nat) : (s.popPc).key k = s.key k := rfl
@[simp] theorem State.popPc_readStack (s : State) (k : Nat) : (s.popPc).readStack k = s.readStack k := rfl
@[simp] theorem State.popPc_memAddr (s : State) (k : Nat) : (s.popPc).memAddr k = s.memAddr k := rfl

/-! ## writeByte -/

@[simp] theorem State.writeByte_v (s : State) (a : Addr) (b : Byte) : (s.writeByte a b).v = s.v := rfl
@[simp] theorem State.writeByte_i (s : State) (a : Addr) (b : Byte) : (s.writeByte a b).i = s.i := rfl
@[simp] theorem State.writeByte_pc (s : State) (a : Addr) (b : Byte) : (s.writeByte a b).pc = s.pc := rfl
@[simp] theorem State.writeByte_sp (s : State) (a : Addr) (b : Byte) : (s.writeByte a b).sp = s.sp := rfl
@[simp] theorem State.writeByte_dt (s : State) (a : Addr) (b : Byte) : (s.writeByte a b).dt = s.dt := rfl
@[simp] theorem State.writeByte_st (s : State) (a : Addr) (b : Byte) : (s.writeByte a b).st = s.st := rfl
@[simp] theorem State.writeByte_stack (s : State) (a : Addr) (b : Byte) : (s.writeByte a b).stack = s.stack := rfl
@[simp] theorem State.writeByte_mem (s : State) (a : Addr) (b : Byte) : (s.writeByte a b).mem = Memory.write s.params.font s.mem a.toNat b := rfl
@[simp] theorem State.writeByte_fb (s : State) (a : Addr) (b : Byte) : (s.writeByte a b).fb = s.fb := rfl
@[simp] theorem State.writeByte_drawPending (s : State) (a : Addr) (b : Byte) : (s.writeByte a b).drawPending = s.drawPending := rfl
@[simp] theorem State.writeByte_keys (s : State) (a : Addr) (b : Byte) : (s.writeByte a b).keys = s.keys := rfl
@[simp] theorem State.writeByte_op (s : State) (a : Addr) (b : Byte) : (s.writeByte a b).op = s.op := rfl
@[simp] theorem State.writeByte_seed (s : State) (a : Addr) (b : Byte) : (s.writeByte a b).seed = s.seed := rfl
@[simp] theorem State.writeByte_clockRate (s : State) (a : Addr) (b : Byte) : (s.writeByte a b).clockRate = s.clockRate := rfl
@[simp] theorem State.writeByte_vsync (s : State) (a : Addr) (b : Byte) : (s.writeByte a b).vsync = s.vsync := rfl
@[simp] theorem State.writeByte_halted (s : State) (a : Addr) (b : Byte) : (s.writeByte a b).halted = s.halted := rfl
@[simp] theorem State.writeByte_faultCode (s : State) (a : Addr) (b : Byte) : (s.writeByte a b).faultCode = s.faultCode := rfl
@[simp] theorem State.writeByte_faultPc (s : State) (a : Addr) (b : Byte) : (s.writeByte a b).faultPc = s.faultPc := rfl
@[simp] theorem State.writeByte_soundLatch (s : State) (a : Addr) (b : Byte) : (s.writeByte a b).soundLatch = s.soundLatch := rfl
@[simp] theorem State.writeByte_params (s : State) (a : Addr) (b : Byte) : (s.writeByte a b).params = s.params := rfl
@[simp] theorem State.writeByte_readV (s : State) (a : Addr) (b : Byte) (y : Reg) : (s.writeByte a b).readV y = s.readV y := rfl
@[simp] theorem State.writeByte_pixel (s : State) (a : Addr) (b : Byte) (q : Nat) : (s.writeByte a b).pixel q = s.pixel q := rfl
@[simp] theorem State.writeByte_key (s : State) (a : Addr) (b : Byte) (k : Nat) : (s.writeByte a b).key k = s.key k := rfl
@[simp] theorem State.writeByte_readStack (s : State) (a : Addr) (b : Byte) (k : Nat) : (s.writeByte a b).readStack k = s.readStack k := rfl
@[simp] theorem State.writeByte_memAddr (s : State) (a : Addr) (b : Byte) (k : Nat) : (s.writeByte a b).memAddr k = s.memAddr k := rfl

/-! ## clearFb -/

@[simp] theorem State.clearFb_v (s : State) : (s.clearFb).v = s.v := rfl
@[simp] theorem State.clearFb_i (s : State) : (s.clearFb).i = s.i := rfl
@[simp] theorem State.clearFb_pc (s : State) : (s.clearFb).pc = s.pc := rfl
@[simp] theorem State.clearFb_sp (s : State) : (s.clearFb).sp = s.sp := rfl
@[simp] theorem State.clearFb_dt (s : State) : (s.clearFb).dt = s.dt := rfl
@[simp] theorem State.clearFb_st (s : State) : (s.clearFb).st = s.st := rfl
@[simp] theorem State.clearFb_stack (s : State) : (s.clearFb).stack = s.stack := rfl
@[simp] theorem State.clearFb_mem (s : State) : (s.clearFb).mem = s.mem := rfl
@[simp] theorem State.clearFb_fb (s : State) : (s.clearFb).fb = Framebuffer.clear := rfl
@[simp] theorem State.clearFb_drawPending (s : State) : (s.clearFb).drawPending = s.drawPending := rfl
@[simp] theorem State.clearFb_keys (s : State) : (s.clearFb).keys = s.keys := rfl
@[simp] theorem State.clearFb_op (s : State) : (s.clearFb).op = s.op := rfl
@[simp] theorem State.clearFb_seed (s : State) : (s.clearFb).seed = s.seed := rfl
@[simp] theorem State.clearFb_clockRate (s : State) : (s.clearFb).clockRate = s.clockRate := rfl
@[simp] theorem State.clearFb_vsync (s : State) : (s.clearFb).vsync = s.vsync := rfl
@[simp] theorem State.clearFb_halted (s : State) : (s.clearFb).halted = s.halted := rfl
@[simp] theorem State.clearFb_faultCode (s : State) : (s.clearFb).faultCode = s.faultCode := rfl
@[simp] theorem State.clearFb_faultPc (s : State) : (s.clearFb).faultPc = s.faultPc := rfl
@[simp] theorem State.clearFb_soundLatch (s : State) : (s.clearFb).soundLatch = s.soundLatch := rfl
@[simp] theorem State.clearFb_params (s : State) : (s.clearFb).params = s.params := rfl
@[simp] theorem State.clearFb_readV (s : State) (y : Reg) : (s.clearFb).readV y = s.readV y := rfl
@[simp] theorem State.clearFb_readByte (s : State) (c : Addr) : (s.clearFb).readByte c = s.readByte c := rfl
@[simp] theorem State.clearFb_key (s : State) (k : Nat) : (s.clearFb).key k = s.key k := rfl
@[simp] theorem State.clearFb_readStack (s : State) (k : Nat) : (s.clearFb).readStack k = s.readStack k := rfl
@[simp] theorem State.clearFb_memAddr (s : State) (k : Nat) : (s.clearFb).memAddr k = s.memAddr k := rfl
@[simp] theorem State.clearFb_fetchWord (s : State) : (s.clearFb).fetchWord = s.fetchWord := rfl

/-! ## markDraw -/

@[simp] theorem State.markDraw_v (s : State) : (s.markDraw).v = s.v := rfl
@[simp] theorem State.markDraw_i (s : State) : (s.markDraw).i = s.i := rfl
@[simp] theorem State.markDraw_pc (s : State) : (s.markDraw).pc = s.pc := rfl
@[simp] theorem State.markDraw_sp (s : State) : (s.markDraw).sp = s.sp := rfl
@[simp] theorem State.markDraw_dt (s : State) : (s.markDraw).dt = s.dt := rfl
@[simp] theorem State.markDraw_st (s : State) : (s.markDraw).st = s.st := rfl
@[simp] theorem State.markDraw_stack (s : State) : (s.markDraw).stack = s.stack := rfl
@[simp] theorem State.markDraw_mem (s : State) : (s.markDraw).mem = s.mem := rfl
@[simp] theorem State.markDraw_fb (s : State) : (s.markDraw).fb = s.fb := rfl
@[simp] theorem State.markDraw_drawPending (s : State) : (s.markDraw).drawPending = true := rfl
@[simp] theorem State.markDraw_keys (s : State) : (s.markDraw).keys = s.keys := rfl
@[simp] theorem State.markDraw_op (s : State) : (s.markDraw).op = s.op := rfl
@[simp] theorem State.markDraw_seed (s : State) : (s.markDraw).seed = s.seed := rfl
@[simp] theorem State.markDraw_clockRate (s : State) : (s.markDraw).clockRate = s.clockRate := rfl
@[simp] theorem State.markDraw_vsync (s : State) : (s.markDraw).vsync = s.vsync := rfl
@[simp] theorem State.markDraw_halted (s : State) : (s.markDraw).halted = s.halted := rfl
@[simp] theorem State.markDraw_faultCode (s : State) : (s.markDraw).faultCode = s.faultCode := rfl
@[simp] theorem State.markDraw_faultPc (s : State) : (s.markDraw).faultPc = s.faultPc := rfl
@[simp] theorem State.markDraw_soundLatch (s : State) : (s.markDraw).soundLatch = s.soundLatch := rfl
@[simp] theorem State.markDraw_params (s : State) : (s.markDraw).params = s.params := rfl
@[simp] theorem State.markDraw_readV (s : State) (y : Reg) : (s.markDraw).readV y = s.readV y := rfl
@[simp] theorem State.markDraw_readByte (s : State) (c : Addr) : (s.markDraw).readByte c = s.readByte c := rfl
@[simp] theorem State.markDraw_pixel (s : State) (q : Nat) : (s.markDraw).pixel q = s.pixel q := rfl
@[simp] theorem State.markDraw_key (s : State) (k : Nat) : (s.markDraw).key k = s.key k := rfl
@[simp] theorem State.markDraw_readStack (s : State) (k : Nat) : (s.markDraw).readStack k = s.readStack k := rfl
@[simp] theorem State.markDraw_memAddr (s : State) (k : Nat) : (s.markDraw).memAddr k = s.memAddr k := rfl
@[simp] theorem State.markDraw_fetchWord (s : State) : (s.markDraw).fetchWord = s.fetchWord := rfl

/-! ## skip -/

@[simp] theorem State.skip_v (s : State) : (s.skip).v = s.v := rfl
@[simp] theorem State.skip_i (s : State) : (s.skip).i = s.i := rfl
@[simp] theorem State.skip_pc (s : State) : (s.skip).pc = s.pc + 2#12 := rfl
@[simp] theorem State.skip_sp (s : State) : (s.skip).sp = s.sp := rfl
@[simp] theorem State.skip_dt (s : State) : (s.skip).dt = s.dt := rfl
@[simp] theorem State.skip_st (s : State) : (s.skip).st = s.st := rfl
@[simp] theorem State.skip_stack (s : State) : (s.skip).stack = s.stack := rfl
@[simp] theorem State.skip_mem (s : State) : (s.skip).mem = s.mem := rfl
@[simp] theorem State.skip_fb (s : State) : (s.skip).fb = s.fb := rfl
@[simp] theorem State.skip_drawPending (s : State) : (s.skip).drawPending = s.drawPending := rfl
@[simp] theorem State.skip_keys (s : State) : (s.skip).keys = s.keys := rfl
@[simp] theorem State.skip_op (s : State) : (s.skip).op = s.op := rfl
@[simp] theorem State.skip_seed (s : State) : (s.skip).seed = s.seed := rfl
@[simp] theorem State.skip_clockRate (s : State) : (s.skip).clockRate = s.clockRate := rfl
@[simp] theorem State.skip_vsync (s : State) : (s.skip).vsync = s.vsync := rfl
@[simp] theorem State.skip_halted (s : State) : (s.skip).halted = s.halted := rfl
@[simp] theorem State.skip_faultCode (s : State) : (s.skip).faultCode = s.faultCode := rfl
@[simp] theorem State.skip_faultPc (s : State) : (s.skip).faultPc = s.faultPc := rfl
@[simp] theorem State.skip_soundLatch (s : State) : (s.skip).soundLatch = s.soundLatch := rfl
@[simp] theorem State.skip_params (s : State) : (s.skip).params = s.params := rfl
@[simp] theorem State.skip_readV (s : State) (y : Reg) : (s.skip).readV y = s.readV y := rfl
@[simp] theorem State.skip_readByte (s : State) (c : Addr) : (s.skip).readByte c = s.readByte c := rfl
@[simp] theorem State.skip_pixel (s : State) (q : Nat) : (s.skip).pixel q = s.pixel q := rfl
@[simp] theorem State.skip_key (s : State) (k : Nat) : (s.skip).key k = s.key k := rfl
@[simp] theorem State.skip_readStack (s : State) (k : Nat) : (s.skip).readStack k = s.readStack k := rfl
@[simp] theorem State.skip_memAddr (s : State) (k : Nat) : (s.skip).memAddr k = s.memAddr k := rfl

/-! ## fetched -/

@[simp] theorem State.fetched_v (s : State) : (s.fetched).v = s.v := rfl
@[simp] theorem State.fetched_i (s : State) : (s.fetched).i = s.i := rfl
@[simp] theorem State.fetched_pc (s : State) : (s.fetched).pc = s.pc + 2#12 := rfl
@[simp] theorem State.fetched_sp (s : State) : (s.fetched).sp = s.sp := rfl
@[simp] theorem State.fetched_dt (s : State) : (s.fetched).dt = s.dt := rfl
@[simp] theorem State.fetched_st (s : State) : (s.fetched).st = s.st := rfl
@[simp] theorem State.fetched_stack (s : State) : (s.fetched).stack = s.stack := rfl
@[simp] theorem State.fetched_mem (s : State) : (s.fetched).mem = s.mem := rfl
@[simp] theorem State.fetched_fb (s : State) : (s.fetched).fb = s.fb := rfl
@[simp] theorem State.fetched_drawPending (s : State) : (s.fetched).drawPending = s.drawPending := rfl
@[simp] theorem State.fetched_keys (s : State) : (s.fetched).keys = s.keys := rfl
@[simp] theorem State.fetched_op (s : State) : (s.fetched).op = s.fetchWord := rfl
@[simp] theorem State.fetched_seed (s : State) : (s.fetched).seed = s.seed := rfl
@[simp] theorem State.fetched_clockRate (s : State) : (s.fetched).clockRate = s.clockRate := rfl
@[simp] theorem State.fetched_vsync (s : State) : (s.fetched).vsync = s.vsync := rfl
@[simp] theorem State.fetched_halted (s : State) : (s.fetched).halted = s.halted := rfl
@[simp] theorem State.fetched_faultCode (s : State) : (s.fetched).faultCode = s.faultCode := rfl
@[simp] theorem State.fetched_faultPc (s : State) : (s.fetched).faultPc = s.faultPc := rfl
@[simp] theorem State.fetched_soundLatch (s : State) : (s.fetched).soundLatch = s.soundLatch := rfl
@[simp] theorem State.fetched_params (s : State) : (s.fetched).params = s.params := rfl
@[simp] theorem State.fetched_readV (s : State) (y : Reg) : (s.fetched).readV y = s.readV y := rfl
@[simp] theorem State.fetched_readByte (s : State) (c : Addr) : (s.fetched).readByte c = s.readByte c := rfl
@[simp] theorem State.fetched_pixel (s : State) (q : Nat) : (s.fetched).pixel q = s.pixel q := rfl
@[simp] theorem State.fetched_key (s : State) (k : Nat) : (s.fetched).key k = s.key k := rfl
@[simp] theorem State.fetched_readStack (s : State) (k : Nat) : (s.fetched).readStack k = s.readStack k := rfl
@[simp] theorem State.fetched_memAddr (s : State) (k : Nat) : (s.fetched).memAddr k = s.memAddr k := rfl

/-! ## raiseFault -/

@[simp] theorem State.raiseFault_v (s : State) (f : FaultCode) : (s.raiseFault f).v = s.v := rfl
@[simp] theorem State.raiseFault_i (s : State) (f : FaultCode) : (s.raiseFault f).i = s.i := rfl
@[simp] theorem State.raiseFault_pc (s : State) (f : FaultCode) : (s.raiseFault f).pc = s.pc := rfl
@[simp] theorem State.raiseFault_sp (s : State) (f : FaultCode) : (s.raiseFault f).sp = s.sp := rfl
@[simp] theorem State.raiseFault_dt (s : State) (f : FaultCode) : (s.raiseFault f).dt = s.dt := rfl
@[simp] theorem State.raiseFault_st (s : State) (f : FaultCode) : (s.raiseFault f).st = s.st := rfl
@[simp] theorem State.raiseFault_stack (s : State) (f : FaultCode) : (s.raiseFault f).stack = s.stack := rfl
@[simp] theorem State.raiseFault_mem (s : State) (f : FaultCode) : (s.raiseFault f).mem = s.mem := rfl
@[simp] theorem State.raiseFault_fb (s : State) (f : FaultCode) : (s.raiseFault f).fb = s.fb := rfl
@[simp] theorem State.raiseFault_drawPending (s : State) (f : FaultCode) : (s.raiseFault f).drawPending = s.drawPending := rfl
@[simp] theorem State.raiseFault_keys (s : State) (f : FaultCode) : (s.raiseFault f).keys = s.keys := rfl
@[simp] theorem State.raiseFault_op (s : State) (f : FaultCode) : (s.raiseFault f).op = s.op := rfl
@[simp] theorem State.raiseFault_seed (s : State) (f : FaultCode) : (s.raiseFault f).seed = s.seed := rfl
@[simp] theorem State.raiseFault_clockRate (s : State) (f : FaultCode) : (s.raiseFault f).clockRate = s.clockRate := rfl
@[simp] theorem State.raiseFault_vsync (s : State) (f : FaultCode) : (s.raiseFault f).vsync = s.vsync := rfl
@[simp] theorem State.raiseFault_halted (s : State) (f : FaultCode) : (s.raiseFault f).halted = true := rfl
@[simp] theorem State.raiseFault_faultCode (s : State) (f : FaultCode) : (s.raiseFault f).faultCode = f := rfl
@[simp] theorem State.raiseFault_faultPc (s : State) (f : FaultCode) : (s.raiseFault f).faultPc = s.pc - 2#12 := rfl
@[simp] theorem State.raiseFault_soundLatch (s : State) (f : FaultCode) : (s.raiseFault f).soundLatch = s.soundLatch := rfl
@[simp] theorem State.raiseFault_params (s : State) (f : FaultCode) : (s.raiseFault f).params = s.params := rfl
@[simp] theorem State.raiseFault_readV (s : State) (f : FaultCode) (y : Reg) : (s.raiseFault f).readV y = s.readV y := rfl
@[simp] theorem State.raiseFault_readByte (s : State) (f : FaultCode) (c : Addr) : (s.raiseFault f).readByte c = s.readByte c := rfl
@[simp] theorem State.raiseFault_pixel (s : State) (f : FaultCode) (q : Nat) : (s.raiseFault f).pixel q = s.pixel q := rfl
@[simp] theorem State.raiseFault_key (s : State) (f : FaultCode) (k : Nat) : (s.raiseFault f).key k = s.key k := rfl
@[simp] theorem State.raiseFault_readStack (s : State) (f : FaultCode) (k : Nat) : (s.raiseFault f).readStack k = s.readStack k := rfl
@[simp] theorem State.raiseFault_memAddr (s : State) (f : FaultCode) (k : Nat) : (s.raiseFault f).memAddr k = s.memAddr k := rfl
@[simp] theorem State.raiseFault_fetchWord (s : State) (f : FaultCode) : (s.raiseFault f).fetchWord = s.fetchWord := rfl

/-! ## clearFault -/

@[simp] theorem State.clearFault_v (s : State) : (s.clearFault).v = s.v := rfl
@[simp] theorem State.clearFault_i (s : State) : (s.clearFault).i = s.i := rfl
@[simp] theorem State.clearFault_pc (s : State) : (s.clearFault).pc = s.pc := rfl
@[simp] theorem State.clearFault_sp (s : State) : (s.clearFault).sp = s.sp := rfl
@[simp] theorem State.clearFault_dt (s : State) : (s.clearFault).dt = s.dt := rfl
@[simp] theorem State.clearFault_st (s : State) : (s.clearFault).st = s.st := rfl
@[simp] theorem State.clearFault_stack (s : State) : (s.clearFault).stack = s.stack := rfl
@[simp] theorem State.clearFault_mem (s : State) : (s.clearFault).mem = s.mem := rfl
@[simp] theorem State.clearFault_fb (s : State) : (s.clearFault).fb = s.fb := rfl
@[simp] theorem State.clearFault_drawPending (s : State) : (s.clearFault).drawPending = s.drawPending := rfl
@[simp] theorem State.clearFault_keys (s : State) : (s.clearFault).keys = s.keys := rfl
@[simp] theorem State.clearFault_op (s : State) : (s.clearFault).op = s.op := rfl
@[simp] theorem State.clearFault_seed (s : State) : (s.clearFault).seed = s.seed := rfl
@[simp] theorem State.clearFault_clockRate (s : State) : (s.clearFault).clockRate = s.clockRate := rfl
@[simp] theorem State.clearFault_vsync (s : State) : (s.clearFault).vsync = s.vsync := rfl
@[simp] theorem State.clearFault_halted (s : State) : (s.clearFault).halted = false := rfl
@[simp] theorem State.clearFault_faultCode (s : State) : (s.clearFault).faultCode = .none := rfl
@[simp] theorem State.clearFault_faultPc (s : State) : (s.clearFault).faultPc = 0#12 := rfl
@[simp] theorem State.clearFault_soundLatch (s : State) : (s.clearFault).soundLatch = s.soundLatch := rfl
@[simp] theorem State.clearFault_params (s : State) : (s.clearFault).params = s.params := rfl
@[simp] theorem State.clearFault_readV (s : State) (y : Reg) : (s.clearFault).readV y = s.readV y := rfl
@[simp] theorem State.clearFault_readByte (s : State) (c : Addr) : (s.clearFault).readByte c = s.readByte c := rfl
@[simp] theorem State.clearFault_pixel (s : State) (q : Nat) : (s.clearFault).pixel q = s.pixel q := rfl
@[simp] theorem State.clearFault_key (s : State) (k : Nat) : (s.clearFault).key k = s.key k := rfl
@[simp] theorem State.clearFault_readStack (s : State) (k : Nat) : (s.clearFault).readStack k = s.readStack k := rfl
@[simp] theorem State.clearFault_memAddr (s : State) (k : Nat) : (s.clearFault).memAddr k = s.memAddr k := rfl
@[simp] theorem State.clearFault_fetchWord (s : State) : (s.clearFault).fetchWord = s.fetchWord := rfl

/-! ## advanceSeed -/

@[simp] theorem State.advanceSeed_v (s : State) : (s.advanceSeed).v = s.v := rfl
@[simp] theorem State.advanceSeed_i (s : State) : (s.advanceSeed).i = s.i := rfl
@[simp] theorem State.advanceSeed_pc (s : State) : (s.advanceSeed).pc = s.pc := rfl
@[simp] theorem State.advanceSeed_sp (s : State) : (s.advanceSeed).sp = s.sp := rfl
@[simp] theorem State.advanceSeed_dt (s : State) : (s.advanceSeed).dt = s.dt := rfl
@[simp] theorem State.advanceSeed_st (s : State) : (s.advanceSeed).st = s.st := rfl
@[simp] theorem State.advanceSeed_stack (s : State) : (s.advanceSeed).stack = s.stack := rfl
@[simp] theorem State.advanceSeed_mem (s : State) : (s.advanceSeed).mem = s.mem := rfl
@[simp] theorem State.advanceSeed_fb (s : State) : (s.advanceSeed).fb = s.fb := rfl
@[simp] theorem State.advanceSeed_drawPending (s : State) : (s.advanceSeed).drawPending = s.drawPending := rfl
@[simp] theorem State.advanceSeed_keys (s : State) : (s.advanceSeed).keys = s.keys := rfl
@[simp] theorem State.advanceSeed_op (s : State) : (s.advanceSeed).op = s.op := rfl
@[simp] theorem State.advanceSeed_seed (s : State) : (s.advanceSeed).seed = nextSeed s.seed := rfl
@[simp] theorem State.advanceSeed_clockRate (s : State) : (s.advanceSeed).clockRate = s.clockRate := rfl
@[simp] theorem State.advanceSeed_vsync (s : State) : (s.advanceSeed).vsync = s.vsync := rfl
@[simp] theorem State.advanceSeed_halted (s : State) : (s.advanceSeed).halted = s.halted := rfl
@[simp] theorem State.advanceSeed_faultCode (s : State) : (s.advanceSeed).faultCode = s.faultCode := rfl
@[simp] theorem State.advanceSeed_faultPc (s : State) : (s.advanceSeed).faultPc = s.faultPc := rfl
@[simp] theorem State.advanceSeed_soundLatch (s : State) : (s.advanceSeed).soundLatch = s.soundLatch := rfl
@[simp] theorem State.advanceSeed_params (s : State) : (s.advanceSeed).params = s.params := rfl
@[simp] theorem State.advanceSeed_readV (s : State) (y : Reg) : (s.advanceSeed).readV y = s.readV y := rfl
@[simp] theorem State.advanceSeed_readByte (s : State) (c : Addr) : (s.advanceSeed).readByte c = s.readByte c := rfl
@[simp] theorem State.advanceSeed_pixel (s : State) (q : Nat) : (s.advanceSeed).pixel q = s.pixel q := rfl
@[simp] theorem State.advanceSeed_key (s : State) (k : Nat) : (s.advanceSeed).key k = s.key k := rfl
@[simp] theorem State.advanceSeed_readStack (s : State) (k : Nat) : (s.advanceSeed).readStack k = s.readStack k := rfl
@[simp] theorem State.advanceSeed_memAddr (s : State) (k : Nat) : (s.advanceSeed).memAddr k = s.memAddr k := rfl
@[simp] theorem State.advanceSeed_fetchWord (s : State) : (s.advanceSeed).fetchWord = s.fetchWord := rfl

/-! ## Readings after the update that writes them -/

/-- V registers: the one written holds the value, the others keep theirs (R14). -/
@[simp] theorem State.readV_writeV (s : State) (x y : Reg) (b : Byte) :
    (s.writeV x b).readV y = if y = x then b else s.readV y := by
  simp only [State.readV, State.writeV, Vector.getElem_set, BitVec.toNat_inj, eq_comm]

/-- RAM: the byte written reads as written, the others as before (R35, R44). -/
theorem State.readByte_writeByte {s : State} (hs : Memory.wf s.params.font s.mem = true) (a c : Addr) (b : Byte) :
    (s.writeByte a b).readByte c = if c = a then b else s.readByte c := by
  have h := Memory.read_write (a := a.toNat) (c := c.toNat) (b := b) hs
  simp only [BitVec.toNat_inj] at h
  exact h

/-- A store keeps the canonical form of the memory. -/
theorem State.wf_writeByte {s : State} (hs : Memory.wf s.params.font s.mem = true) (a : Addr) (b : Byte) :
    Memory.wf (s.writeByte a b).params.font (s.writeByte a b).mem = true :=
  Memory.wf_write a.isLt hs

/-- Two V register files that read alike are equal. -/
theorem State.v_eq_of_readV {s t : State} (h : ∀ x : Reg, s.readV x = t.readV x) : s.v = t.v := by
  refine Vector.ext fun k hk => ?_
  have := h (BitVec.ofNat 4 k)
  simp only [State.readV, BitVec.toNat_ofNat] at this
  simpa only [show k % 2 ^ 4 = k by omega] using this

/-! ## Framebuffer (R22) -/

/-- A flip changes the pixel it names, when that is one of the 2048, and no other. -/
theorem Framebuffer.pixel_flip (fb : Framebuffer) (t q : Nat) :
    (Framebuffer.flip fb t).pixel q = (fb.pixel q ^^ (decide (q = t) && decide (t < 2048))) := by
  simp only [Framebuffer.pixel, Framebuffer.flip, Vector.getElem?_setIfInBounds]
  by_cases hr : t / 64 = q / 64
  · by_cases ht : q / 64 < 32
    · rw [if_pos hr, if_pos (by omega), hr]
      simp only [Option.getD_some, BitVec.getLsbD_xor, BitVec.getLsbD_shiftLeft, BitVec.getLsbD_one]
      congr 1
      by_cases h : q = t
      · subst h; simp; omega
      · have hne : ¬ (q % 64 = t % 64) := by omega
        have h64 : q % 64 < 64 := Nat.mod_lt _ (by omega)
        by_cases hlt : q % 64 < t % 64
        · simp [h, hlt]
        · have : ¬ (q % 64 - t % 64 = 0) := by omega
          simp [h, this]
    · rw [if_pos hr, if_neg (by omega)]
      have : fb[q / 64]? = none := by simp; omega
      simp [this]; omega
  · rw [if_neg hr]
    have : ¬ q = t := fun h => hr (by rw [h])
    simp [this]

/-- A cleared framebuffer has every pixel off. -/
@[simp] theorem Framebuffer.pixel_clear (q : Nat) : Framebuffer.clear.pixel q = false := by
  simp only [Framebuffer.pixel, Framebuffer.clear, Vector.getElem?_replicate]
  split <;> simp

/-- Two framebuffers whose 2048 pixels agree are equal. -/
theorem Framebuffer.eq_of_pixel {fb gb : Framebuffer} (h : ∀ q < 2048, fb.pixel q = gb.pixel q) : fb = gb := by
  refine Vector.ext fun r hr => BitVec.eq_of_getLsbD_eq fun c hc => ?_
  have := h (r * 64 + c) (by omega)
  simp only [Framebuffer.pixel, show (r * 64 + c) / 64 = r by omega, show (r * 64 + c) % 64 = c by omega] at this
  rw [Vector.getElem?_eq_getElem hr, Vector.getElem?_eq_getElem hr] at this
  exact this

@[simp] theorem State.pixel_clearFb (s : State) (q : Nat) : s.clearFb.pixel q = false := Framebuffer.pixel_clear q

/-! ## The call stack (R19, R20) -/

/-- A push writes the entry SP names, when that is one of the 16, and no other. -/
@[simp] theorem State.readStack_push (s : State) (a : Addr) (k : Nat) :
    (s.push a).readStack k = if k = s.sp.toNat ∧ k < 16 then a else s.readStack k := by
  simp only [State.readStack, State.push, Vector.getElem?_setIfInBounds]
  by_cases hk : s.sp.toNat = k
  · subst hk
    by_cases h16 : s.sp.toNat < 16
    · simp [h16]
    · simp [h16]
  · rw [if_neg hk, if_neg (fun h => hk h.1.symm)]

/-- A conditional skip is a skip or nothing (R79). -/
theorem State.skipIf_cases (s : State) (c : Bool) :
    (c = true ∧ s.skipIf c = s.skip) ∨ (c = false ∧ s.skipIf c = s) := by
  cases c
  · exact .inr ⟨rfl, rfl⟩
  · exact .inl ⟨rfl, rfl⟩

end Sys2Proof.Machine
end

