-- ==== Sys2Proof/Laws/Ops.lean ====
section
/-! SUPPORT. One lemma per shared operation that says what it can do: the flagged write (R88), the block transfers
(R106, R107), the drawing loops (R109), placing a pixel (R110), the fault (R117). -/

namespace Sys2Proof.Machine

/-! ## The flagged write (R88) -/

/-- Only V registers change. -/
theorem State.writeFlagged_eq (s : State) (x y : Reg) (f r : Byte → Byte → Byte) :
    s.writeFlagged x y f r = { s with v := (s.writeFlagged x y f r).v } := by
  unfold State.writeFlagged
  split <;> rfl

/-- Under `sequential` the second write reads the registers as the first left them. -/
theorem State.readV_writeFlagged_sequential {s : State} (h : s.params.vfOrder = .sequential) (x y q : Reg)
    (f r : Byte → Byte → Byte) :
    (s.writeFlagged x y f r).readV q =
      if q = x then
        r (if x = VF then f (s.readV x) (s.readV y) else s.readV x)
          (if y = VF then f (s.readV x) (s.readV y) else s.readV y)
      else if q = VF then f (s.readV x) (s.readV y) else s.readV q := by
  simp only [State.writeFlagged, h, State.readV_writeV]

/-- Under `snapshot` both values come from the registers before the instruction, and VF is written last. -/
theorem State.readV_writeFlagged_snapshot {s : State} (h : s.params.vfOrder = .snapshot) (x y q : Reg)
    (f r : Byte → Byte → Byte) :
    (s.writeFlagged x y f r).readV q =
      if q = VF then f (s.readV x) (s.readV y)
      else if q = x then r (s.readV x) (s.readV y) else s.readV q := by
  simp only [State.writeFlagged, h, State.readV_writeV]

/-! ## The block transfers (R106, R107) -/

/-- Distinct offsets below 16 are distinct addresses, wrap or no wrap (R36). -/
theorem State.memAddr_inj {s : State} {j k : Nat} (hj : j < 4096) (hk : k < 4096) :
    s.memAddr j = s.memAddr k ↔ j = k := by
  constructor
  · intro h
    have h := congrArg BitVec.toNat h
    simp only [State.memAddr, BitVec.toNat_add, BitVec.toNat_ofNat] at h
    have := s.i.isLt
    omega
  · rintro rfl; rfl

/-- Folding an operation that touches only the memory touches only the memory. -/
theorem State.storeBlock_eq (s : State) (n : Nat) : s.storeBlock n = { s with mem := (s.storeBlock n).mem } := by
  unfold State.storeBlock
  induction n with
  | zero => rfl
  | succ n ih =>
    rw [List.range_succ, List.foldl_append, List.foldl_cons, List.foldl_nil, ih]
    rfl

theorem State.storeBlock_succ (s : State) (n : Nat) : s.storeBlock (n + 1) = (s.storeBlock n).storeReg n := by
  simp only [State.storeBlock, List.range_succ, List.foldl_append, List.foldl_cons, List.foldl_nil]

/-- A block store keeps the canonical form of the memory. -/
theorem State.wf_storeBlock {s : State} (hs : Memory.wf s.params.font s.mem = true) (n : Nat) :
    Memory.wf (s.storeBlock n).params.font (s.storeBlock n).mem = true := by
  induction n with
  | zero => exact hs
  | succ n ih =>
    rw [State.storeBlock_succ]
    exact State.wf_writeByte ih _ _

/-- After a block store the n bytes from I on hold V0 to V(n - 1), and every other byte reads as before. -/
theorem State.readByte_storeBlock {s : State} (hs : Memory.wf s.params.font s.mem = true) {n : Nat} (hn : n ≤ 16) :
    (∀ k < n, (s.storeBlock n).readByte (s.memAddr k) = s.readV (BitVec.ofNat 4 k)) ∧
      ∀ a, (∀ k < n, a ≠ s.memAddr k) → (s.storeBlock n).readByte a = s.readByte a := by
  induction n with
  | zero => exact ⟨fun k hk => absurd hk (Nat.not_lt_zero k), fun a _ => rfl⟩
  | succ n ih =>
    obtain ⟨ih1, ih2⟩ := ih (by omega)
    have hi : (s.storeBlock n).i = s.i := by rw [State.storeBlock_eq]
    have hv : (s.storeBlock n).v = s.v := by rw [State.storeBlock_eq]
    have haddr : (s.storeBlock n).memAddr n = s.memAddr n := by simp only [State.memAddr, hi]
    have hread : (s.storeBlock n).readV (BitVec.ofNat 4 n) = s.readV (BitVec.ofNat 4 n) := by
      simp only [State.readV, hv]
    have step : ∀ a, (s.storeBlock (n + 1)).readByte a =
        if a = s.memAddr n then s.readV (BitVec.ofNat 4 n) else (s.storeBlock n).readByte a := by
      intro a
      rw [State.storeBlock_succ, State.storeReg, State.readByte_writeByte (State.wf_storeBlock hs n), haddr, hread]
    constructor
    · intro k hk
      rw [step]
      split
      · rename_i h
        rw [(State.memAddr_inj (by omega) (by omega)).1 h]
      · rename_i h
        have : k ≠ n := fun e => h (by rw [e])
        exact ih1 k (by omega)
    · intro a ha
      rw [step, if_neg (ha n (Nat.lt_succ_self n))]
      exact ih2 a fun k hk => ha k (by omega)

theorem State.loadBlock_succ (s : State) (n : Nat) : s.loadBlock (n + 1) = (s.loadBlock n).loadReg n := by
  simp only [State.loadBlock, List.range_succ, List.foldl_append, List.foldl_cons, List.foldl_nil]

/-- A block load touches only V registers. -/
theorem State.loadBlock_eq (s : State) (n : Nat) : s.loadBlock n = { s with v := (s.loadBlock n).v } := by
  induction n with
  | zero => rfl
  | succ n ih =>
    rw [State.loadBlock_succ, ih]
    rfl

/-- After a block load V0 to V(n - 1) hold the n bytes from I on, and the other registers read as before. -/
theorem State.readV_loadBlock (s : State) {n : Nat} (hn : n ≤ 16) (r : Reg) :
    (s.loadBlock n).readV r = if r.toNat < n then s.readByte (s.memAddr r.toNat) else s.readV r := by
  induction n with
  | zero => simp only [Nat.not_lt_zero, if_false]; rfl
  | succ n ih =>
    have ih := ih (by omega)
    have hb : ∀ a, (s.loadBlock n).readByte a = s.readByte a := fun a => by rw [State.loadBlock_eq]; rfl
    have ha : ∀ k, (s.loadBlock n).memAddr k = s.memAddr k := fun k => by rw [State.loadBlock_eq]; rfl
    rw [State.loadBlock_succ, State.loadReg, State.readV_writeV, ih, hb, ha]
    by_cases h : r = BitVec.ofNat 4 n
    · subst h
      have : (BitVec.ofNat 4 n).toNat = n := by simp; omega
      rw [if_pos rfl, if_pos (by omega), this]
    · have : r.toNat ≠ n := fun e => h (by rw [← e]; simp)
      rw [if_neg h]
      by_cases h' : r.toNat < n
      · rw [if_pos h', if_pos (by omega)]
      · rw [if_neg h', if_neg (by omega)]

/-! ## Drawing (R109, R110) -/

/-- A placed pixel is one of the 2048 (R22, R110). -/
theorem place_lt {p : Params} {px py t : Nat} (h : place p px py = some t) : t < 2048 := by
  simp only [place] at h
  split at h <;> split at h
  · simp only [Option.some.injEq] at h; omega
  · split at h
    · simp at h
    · simp only [Option.some.injEq] at h; omega
  · simp only [Option.some.injEq] at h; omega
  · split at h
    · simp at h
    · simp only [Option.some.injEq] at h; omega

/-- The collision flag and the pixels after one set bit at a pixel of the framebuffer. -/
theorem Canvas.drawPixel_spec {c : Canvas} {t : Nat} (ht : t < 2048) :
    (c.drawPixel t).vf = c.vf ||| b2u (Framebuffer.pixel c.fb t) ∧
      ∀ q, Framebuffer.pixel (c.drawPixel t).fb q = (Framebuffer.pixel c.fb q ^^ decide (q = t)) := by
  refine ⟨rfl, fun q => ?_⟩
  simp only [Canvas.drawPixel, Framebuffer.pixel_flip, ht, decide_true, Bool.and_true]

/-- What a sprite bit can do: nothing, or draw the pixel it is placed at. -/
theorem drawBit_cases (s : State) (x y : Reg) (row : Nat) (c : Canvas) (col : Nat) :
    drawBit s x y row c col = c ∨
      ∃ t, s.spriteBit row col = true ∧
        place s.params ((drawOrigin s x y c).1 + col) ((drawOrigin s x y c).2 + row) = some t ∧
        drawBit s x y row c col = c.drawPixel t := by
  unfold drawBit
  split
  · rename_i hb
    split
    · exact .inl rfl
    · rename_i t ht
      exact .inr ⟨t, hb, ht, rfl⟩
  · exact .inl rfl

/-- What every bit of a draw keeps, the whole draw keeps. -/
theorem drawSprite_induction {P : Canvas → Prop} {s : State} {x y : Reg} (n : Nat)
    (h0 : P { vf := 0#8, fb := s.fb }) (hb : ∀ row c col, P c → P (drawBit s x y row c col)) :
    P (drawSprite s x y n) := by
  have fold : ∀ {f : Canvas → Nat → Canvas}, (∀ c a, P c → P (f c a)) → ∀ (l : List Nat) (c : Canvas), P c →
      P (l.foldl f c) := by
    intro f hf l
    induction l with
    | nil => exact fun c hc => hc
    | cons a l ih => exact fun c hc => ih _ (hf c a hc)
  exact fold (fun c row hc => fold (fun c col hc => hb row c col hc) _ c hc) _ _ h0

/-- A draw leaves in VF 0 or 1 (R109). -/
theorem drawSprite_vf (s : State) (x y : Reg) (n : Nat) :
    (drawSprite s x y n).vf = 0#8 ∨ (drawSprite s x y n).vf = 1#8 := by
  refine drawSprite_induction (P := fun c => c.vf = 0#8 ∨ c.vf = 1#8) n (.inl rfl) fun row c col hc => ?_
  rcases drawBit_cases s x y row c col with h | ⟨t, -, -, h⟩
  · rwa [h]
  · rw [h]
    simp only [Canvas.drawPixel, b2u]
    rcases hc with hc | hc <;> rw [hc] <;> split <;> decide

/-- Putting a canvas back writes VF and the framebuffer, and nothing else. -/
theorem State.putCanvas_spec (s : State) (c : Canvas) :
    s.putCanvas c = { s with v := (s.putCanvas c).v, fb := c.fb } ∧
      (∀ r, (s.putCanvas c).readV r = if r = VF then c.vf else s.readV r) ∧
      ∀ q, (s.putCanvas c).pixel q = Framebuffer.pixel c.fb q :=
  ⟨rfl, fun r => State.readV_writeV s VF r c.vf, fun _ => rfl⟩

/-! ## The fault (R117, R120) -/

/-- A fault writes the fault status and nothing else; the address it records is two below PC. -/
theorem State.raiseFault_spec (s : State) (c : FaultCode) :
    s.raiseFault c = { s with halted := true, faultCode := c, faultPc := s.pc - 2#12 } ∧
      (s.raiseFault c).faultPc + 2#12 = s.pc :=
  ⟨rfl, by simp only [State.raiseFault_faultPc, BitVec.sub_add_cancel]⟩

/-- The address recorded by a fault right after a fetch is that of the instruction fetched. -/
theorem State.faultPc_fetched (s : State) (c : FaultCode) : (s.fetched.raiseFault c).faultPc = s.pc := by
  simp only [State.raiseFault_faultPc, State.fetched_pc, BitVec.add_sub_cancel]

end Sys2Proof.Machine
end

