-- ==== Sys2Proof/Laws/PerInstr.lean ====
section
/-! SUPPORT. One fact of every instruction as syntax: the top four bits of its word are its family (R52). -/

namespace Sys2Proof

/-- The family an instruction belongs to (R52). -/
def familyOf : Instr → Nibble
  | .cls | .ret | .sys _ => 0x0#4
  | .jp _ => 0x1#4
  | .call _ => 0x2#4
  | .seImm _ _ => 0x3#4
  | .sneImm _ _ => 0x4#4
  | .seReg _ _ => 0x5#4
  | .ldImm _ _ => 0x6#4
  | .addImm _ _ => 0x7#4
  | .ldReg _ _ | .orReg _ _ | .andReg _ _ | .xorReg _ _ | .addReg _ _ | .subReg _ _ | .shr _ _ | .subnReg _ _
  | .shl _ _ => 0x8#4
  | .sneReg _ _ => 0x9#4
  | .ldI _ => 0xA#4
  | .jpV0 _ => 0xB#4
  | .rnd _ _ => 0xC#4
  | .drw _ _ _ => 0xD#4
  | .skp _ | .sknp _ => 0xE#4
  | .ldVxDt _ | .ldVxK _ | .ldDtVx _ | .ldStVx _ | .addI _ | .ldF _ | .ldB _ | .storeRegs _ | .loadRegs _ => 0xF#4

/-- The word of an instruction carries the instruction's family in its top four bits. -/
def Laws.EncodeFamily.Statement (i : Instr) : Prop := opFamily (encode i) = familyOf i

theorem Laws.EncodeFamily.cls : Laws.EncodeFamily.Statement .cls := rfl
theorem Laws.EncodeFamily.ret : Laws.EncodeFamily.Statement .ret := rfl
theorem Laws.EncodeFamily.sys (nnn : Addr) : Laws.EncodeFamily.Statement (.sys nnn) :=
  opFamily_encodeNNN ..
theorem Laws.EncodeFamily.jp (nnn : Addr) : Laws.EncodeFamily.Statement (.jp nnn) :=
  opFamily_encodeNNN ..
theorem Laws.EncodeFamily.call (nnn : Addr) : Laws.EncodeFamily.Statement (.call nnn) :=
  opFamily_encodeNNN ..
theorem Laws.EncodeFamily.seImm (x : Reg) (kk : Byte) : Laws.EncodeFamily.Statement (.seImm x kk) :=
  opFamily_encodeXKK ..
theorem Laws.EncodeFamily.sneImm (x : Reg) (kk : Byte) : Laws.EncodeFamily.Statement (.sneImm x kk) :=
  opFamily_encodeXKK ..
theorem Laws.EncodeFamily.seReg (x y : Reg) : Laws.EncodeFamily.Statement (.seReg x y) :=
  opFamily_encodeXYN ..
theorem Laws.EncodeFamily.ldImm (x : Reg) (kk : Byte) : Laws.EncodeFamily.Statement (.ldImm x kk) :=
  opFamily_encodeXKK ..
theorem Laws.EncodeFamily.addImm (x : Reg) (kk : Byte) : Laws.EncodeFamily.Statement (.addImm x kk) :=
  opFamily_encodeXKK ..
theorem Laws.EncodeFamily.ldReg (x y : Reg) : Laws.EncodeFamily.Statement (.ldReg x y) :=
  opFamily_encodeXYN ..
theorem Laws.EncodeFamily.orReg (x y : Reg) : Laws.EncodeFamily.Statement (.orReg x y) :=
  opFamily_encodeXYN ..
theorem Laws.EncodeFamily.andReg (x y : Reg) : Laws.EncodeFamily.Statement (.andReg x y) :=
  opFamily_encodeXYN ..
theorem Laws.EncodeFamily.xorReg (x y : Reg) : Laws.EncodeFamily.Statement (.xorReg x y) :=
  opFamily_encodeXYN ..
theorem Laws.EncodeFamily.addReg (x y : Reg) : Laws.EncodeFamily.Statement (.addReg x y) :=
  opFamily_encodeXYN ..
theorem Laws.EncodeFamily.subReg (x y : Reg) : Laws.EncodeFamily.Statement (.subReg x y) :=
  opFamily_encodeXYN ..
theorem Laws.EncodeFamily.shr (x y : Reg) : Laws.EncodeFamily.Statement (.shr x y) :=
  opFamily_encodeXYN ..
theorem Laws.EncodeFamily.subnReg (x y : Reg) : Laws.EncodeFamily.Statement (.subnReg x y) :=
  opFamily_encodeXYN ..
theorem Laws.EncodeFamily.shl (x y : Reg) : Laws.EncodeFamily.Statement (.shl x y) :=
  opFamily_encodeXYN ..
theorem Laws.EncodeFamily.sneReg (x y : Reg) : Laws.EncodeFamily.Statement (.sneReg x y) :=
  opFamily_encodeXYN ..
theorem Laws.EncodeFamily.ldI (nnn : Addr) : Laws.EncodeFamily.Statement (.ldI nnn) :=
  opFamily_encodeNNN ..
theorem Laws.EncodeFamily.jpV0 (nnn : Addr) : Laws.EncodeFamily.Statement (.jpV0 nnn) :=
  opFamily_encodeNNN ..
theorem Laws.EncodeFamily.rnd (x : Reg) (kk : Byte) : Laws.EncodeFamily.Statement (.rnd x kk) :=
  opFamily_encodeXKK ..
theorem Laws.EncodeFamily.drw (x y : Reg) (n : Nibble) : Laws.EncodeFamily.Statement (.drw x y n) :=
  opFamily_encodeXYN ..
theorem Laws.EncodeFamily.skp (x : Reg) : Laws.EncodeFamily.Statement (.skp x) :=
  opFamily_encodeXKK ..
theorem Laws.EncodeFamily.sknp (x : Reg) : Laws.EncodeFamily.Statement (.sknp x) :=
  opFamily_encodeXKK ..
theorem Laws.EncodeFamily.ldVxDt (x : Reg) : Laws.EncodeFamily.Statement (.ldVxDt x) :=
  opFamily_encodeXKK ..
theorem Laws.EncodeFamily.ldVxK (x : Reg) : Laws.EncodeFamily.Statement (.ldVxK x) :=
  opFamily_encodeXKK ..
theorem Laws.EncodeFamily.ldDtVx (x : Reg) : Laws.EncodeFamily.Statement (.ldDtVx x) :=
  opFamily_encodeXKK ..
theorem Laws.EncodeFamily.ldStVx (x : Reg) : Laws.EncodeFamily.Statement (.ldStVx x) :=
  opFamily_encodeXKK ..
theorem Laws.EncodeFamily.addI (x : Reg) : Laws.EncodeFamily.Statement (.addI x) :=
  opFamily_encodeXKK ..
theorem Laws.EncodeFamily.ldF (x : Reg) : Laws.EncodeFamily.Statement (.ldF x) :=
  opFamily_encodeXKK ..
theorem Laws.EncodeFamily.ldB (x : Reg) : Laws.EncodeFamily.Statement (.ldB x) :=
  opFamily_encodeXKK ..
theorem Laws.EncodeFamily.storeRegs (x : Reg) : Laws.EncodeFamily.Statement (.storeRegs x) :=
  opFamily_encodeXKK ..
theorem Laws.EncodeFamily.loadRegs (x : Reg) : Laws.EncodeFamily.Statement (.loadRegs x) :=
  opFamily_encodeXKK ..

end Sys2Proof
end

