-- ==== Sys2Proof/Laws/Step.lean ====
section
/-! SUPPORT. What a step and a batch can do. -/

namespace Sys2Proof.Machine

/-- A step that answers a next state: nothing while halted, an instruction's meaning on the fetched state, or the fetch
alone for a no-op encoding. -/
theorem step_cases {s t : State} (h : step s = .next t) :
    (s.halted = true ∧ t = s) ∨
      (s.halted = false ∧ ∃ i, decodeWord s.params s.fetchWord = .ok i ∧ exec i s.fetched = .next t) ∨
      (s.halted = false ∧ ∃ e, decodeWord s.params s.fetchWord = .error e ∧ t = s.fetched) := by
  cases hh : s.halted with
  | true =>
    simp only [step, coreStep, hh, if_true, Host.Outcome.next.injEq] at h
    exact .inl ⟨rfl, h.symm⟩
  | false =>
    simp only [step, coreStep, hh, Bool.false_eq_true, if_false, cycle, executeWord, State.fetched_params] at h
    cases hd : decodeWord s.params s.fetchWord with
    | ok i => rw [hd] at h; exact .inr (.inl ⟨rfl, i, rfl, h⟩)
    | error e =>
      rw [hd] at h
      simp only [Host.Outcome.next.injEq] at h
      exact .inr (.inr ⟨rfl, e, rfl, h.symm⟩)

/-- The word a state was given to fetch is the word it fetches (R38). -/
theorem State.fetchWord_placeWord {s : State} (hs : Memory.wf s.params.font s.mem = true) (w : Opcode) :
    (s.placeWord w).fetchWord = w := by
  have hw := State.wf_writeByte hs s.pc (highByte w)
  have hi : ((s.writeByte s.pc (highByte w)).writeByte (s.pc + 1#12) (lowByte w)).readByte s.pc = highByte w := by
    rw [State.readByte_writeByte hw, if_neg (by simp), State.readByte_writeByte hs, if_pos rfl]
  have lo : ((s.writeByte s.pc (highByte w)).writeByte (s.pc + 1#12) (lowByte w)).readByte (s.pc + 1#12)
      = lowByte w := by
    rw [State.readByte_writeByte hw, if_pos rfl]
  rw [State.placeWord, State.clearFault_fetchWord, State.fetchWord]
  simp only [State.writeByte_pc, hi, lo, wordOfBytes_bytes]

/-- A run of k + 1 steps is a step and a run of k. -/
theorem core_run_succ {s t : State} (h : step s = .next t) (k : Nat) : core.run (k + 1) s = core.run k t := by
  have key : ∀ (M : Host.Core) (s t : M.State), M.step s = .next t → M.run (k + 1) s = M.run k t := by
    intro M s t h
    rw [Host.Core.run, h]
  exact key core s t h

/-- A batch of no cycles. -/
@[simp] theorem batch_zero (s : State) : batch 0 s = .next s := rfl

/-- A batch of a halted core runs no cycle (R64). -/
theorem batch_halted {s : State} (h : s.halted = true) (n : Nat) : batch n s = .next s := by
  cases n with
  | zero => rfl
  | succ n => simp only [batch, h, if_true]

/-- A batch that runs a cycle: the cycle, then the rest unless vsync ends it (R65, R67). -/
theorem batch_succ {s t : State} (h : s.halted = false) (ht : step s = .next t) (n : Nat) :
    batch (n + 1) s = if t.vsyncStops then .next t else batch n t := by
  have ht : coreStep s = .next t := ht
  simp only [batch, h, ht, Bool.false_eq_true, if_false]

end Sys2Proof.Machine
end

