-- ==== Sys2Proof/Tests/Slice0.lean ====
section
/-! SUPPORT. The model's own tests: ill-formed terms refused; every row's word, written from the patterns of
spec/opcode_table.json, decoded; one step of every instruction on the vectors of spec/95_test_vectors.md sections 2.1
and 2.2 (expected values are that file's); and, for every statement with hypotheses, a state and operands that meet
them. -/

namespace Sys2Proof.Tests

open Sys2Proof Sys2Proof.Machine

/-! ## Helpers -/

/-- The reset state with some parameters changed. -/
def under (f : Params → Params) : State := { State.reset with params := f defaultParams }

/-- The state with some V registers set. -/
def withV (s : State) (l : List (Reg × Byte)) : State := l.foldl (fun s c => s.writeV c.1 c.2) s

/-- The reset state with some V registers set. -/
def regs (l : List (Reg × Byte)) : State := withV State.reset l

/-- The state with some bytes of RAM set. -/
def withRam (s : State) (l : List (Addr × Byte)) : State := l.foldl (fun s c => s.writeByte c.1 c.2) s

/-- The state with some pixels, all off before, turned on. -/
def withPixels (s : State) (l : List Nat) : State := { s with fb := l.foldl Framebuffer.flip s.fb }

/-- The state with some keys pressed. -/
def withKeys (s : State) (l : List Nat) : State := l.foldl (fun s k => s.setKey k true) s

/-- One step with the word `w` where it fetches. -/
def after (s : State) (w : Nat) : Result := step (s.withFetchWord 16 w)

/-- The step answers a next state that `p` accepts. -/
def ends (r : Result) (p : State → Bool) : Bool :=
  match r with
  | .next t => p t
  | .fault _ => false
  | .refused _ => false

/-- The step answers the fault state, with the code and the address of the instruction at 0x200, PC at 0x202. -/
def faults (r : Result) (c : FaultCode) : Bool :=
  ends r fun t => t.halted && t.faultCode == c && t.faultPc == 0x200#12 && t.pc == 0x202#12

/-- The state has exactly these pixels on. -/
def pixelsAre (t : State) (l : List Nat) : Bool := t.fb == l.foldl Framebuffer.flip Framebuffer.clear

/-- The default parameters with another `P_FAMILY0_MATCH`. -/
def lowByteParams : Params := { defaultParams with family0 := .lowByte }

/-! ## Well-formedness: a SYS word that is CLS or RET is refused (R53, R74) -/

theorem test_wf_sys_cls_word_refused : wellFormed defaultParams (.sys 0x0E0#12) = false := by decide
theorem test_wf_sys_ret_word_refused : wellFormed defaultParams (.sys 0x0EE#12) = false := by decide
theorem test_wf_sys_low_byte_cls_refused : wellFormed lowByteParams (.sys 0x1E0#12) = false := by decide
theorem test_wf_sys_low_byte_ret_refused : wellFormed lowByteParams (.sys 0xFEE#12) = false := by decide
theorem test_wf_sys_accepted :
    wellFormed defaultParams (.sys 0x1E0#12) = true ∧ wellFormed lowByteParams (.sys 0x1E1#12) = true := by decide

/-! ## Decoding: every row's word, from its pattern (spec/opcode_table.json) -/

theorem test_decode_family0 :
    decodeTableWord 16 0b0000000011100000 = some .cls ∧ decodeTableWord 16 0b0000000011101110 = some .ret ∧
    decodeTableWord 16 0b0000000100100011 = some (.sys 0x123#12) ∧
    decodeTableWord 16 0b0000000111100000 = some (.sys 0x1E0#12) := by decide
theorem test_decode_family0_low_byte :
    decodeWord lowByteParams 0x01E0#16 = .ok .cls ∧ decodeWord lowByteParams 0x0FEE#16 = .ok .ret ∧
    decodeWord lowByteParams 0x0FEF#16 = .ok (.sys 0xFEF#12) := by decide
theorem test_decode_jumps :
    decodeTableWord 16 0b0001101010111100 = some (.jp 0xABC#12) ∧
    decodeTableWord 16 0b0010101010111100 = some (.call 0xABC#12) ∧
    decodeTableWord 16 0b1011001100000000 = some (.jpV0 0x300#12) := by decide
theorem test_decode_skips :
    decodeTableWord 16 0b0011101000010010 = some (.seImm 0xA#4 0x12#8) ∧
    decodeTableWord 16 0b0100101000010010 = some (.sneImm 0xA#4 0x12#8) ∧
    decodeTableWord 16 0b0101000100100000 = some (.seReg 0x1#4 0x2#4) ∧
    decodeTableWord 16 0b1001000100100000 = some (.sneReg 0x1#4 0x2#4) ∧
    decodeTableWord 16 0b1110001110011110 = some (.skp 0x3#4) ∧
    decodeTableWord 16 0b1110001110100001 = some (.sknp 0x3#4) := by decide
theorem test_decode_immediates :
    decodeTableWord 16 0b0110101011111111 = some (.ldImm 0xA#4 0xFF#8) ∧
    decodeTableWord 16 0b0111101000000001 = some (.addImm 0xA#4 0x01#8) ∧
    decodeTableWord 16 0b1100000100001111 = some (.rnd 0x1#4 0x0F#8) := by decide
theorem test_decode_family8 :
    decodeTableWord 16 0b1000000100100000 = some (.ldReg 0x1#4 0x2#4) ∧
    decodeTableWord 16 0b1000000100100001 = some (.orReg 0x1#4 0x2#4) ∧
    decodeTableWord 16 0b1000000100100010 = some (.andReg 0x1#4 0x2#4) ∧
    decodeTableWord 16 0b1000000100100011 = some (.xorReg 0x1#4 0x2#4) ∧
    decodeTableWord 16 0b1000000100100100 = some (.addReg 0x1#4 0x2#4) ∧
    decodeTableWord 16 0b1000000100100101 = some (.subReg 0x1#4 0x2#4) ∧
    decodeTableWord 16 0b1000000100100110 = some (.shr 0x1#4 0x2#4) ∧
    decodeTableWord 16 0b1000000100100111 = some (.subnReg 0x1#4 0x2#4) ∧
    decodeTableWord 16 0b1000000100101110 = some (.shl 0x1#4 0x2#4) := by decide
theorem test_decode_index_display :
    decodeTableWord 16 0b1010000100100011 = some (.ldI 0x123#12) ∧
    decodeTableWord 16 0b1101001101000101 = some (.drw 0x3#4 0x4#4 0x5#4) := by decide
theorem test_decode_family_f :
    decodeTableWord 16 0b1111001100000111 = some (.ldVxDt 0x3#4) ∧
    decodeTableWord 16 0b1111001100001010 = some (.ldVxK 0x3#4) ∧
    decodeTableWord 16 0b1111001100010101 = some (.ldDtVx 0x3#4) ∧
    decodeTableWord 16 0b1111001100011000 = some (.ldStVx 0x3#4) ∧
    decodeTableWord 16 0b1111001100011110 = some (.addI 0x3#4) ∧
    decodeTableWord 16 0b1111001100101001 = some (.ldF 0x3#4) ∧
    decodeTableWord 16 0b1111001100110011 = some (.ldB 0x3#4) ∧
    decodeTableWord 16 0b1111001101010101 = some (.storeRegs 0x3#4) ∧
    decodeTableWord 16 0b1111001101100101 = some (.loadRegs 0x3#4) := by decide
/-- The no-op encodings of R56's table that no row names. -/
theorem test_decode_rejects_no_op_encodings :
    [0x5121, 0x8008, 0x8009, 0x800A, 0x800B, 0x800C, 0x800D, 0x800F, 0x9121, 0xE39F, 0xE300, 0xF0FF, 0xF000].all
      (fun w => decodeTableWord 16 w == none) = true := by decide
theorem test_decode_ignore_n :
    decodeWord { defaultParams with skipRegN := .ignoreN } 0x5121#16 = .ok (.seReg 0x1#4 0x2#4) ∧
    decodeWord { defaultParams with skipRegN := .ignoreN } 0x912F#16 = .ok (.sneReg 0x1#4 0x2#4) := by decide
theorem test_decode_bytes_big_endian :
    decodeBytes defaultParams [0x6A#8, 0x14#8, 0xFA#8] = .ok (.ldImm 0xA#4 0x14#8, [0xFA#8]) ∧
    decodeBytes defaultParams [0x6A#8] = .error .truncated := by decide

/-! ## One step: control transfer -/

theorem test_sys : ends (after State.reset 0x0123) (fun t => t.pc == 0x202#12 && !t.halted) = true := by decide
theorem test_jp : ends (after State.reset 0x1ABC) (fun t => t.pc == 0xABC#12) = true := by decide
theorem test_call_last_entry :
    ends (after { State.reset with sp := 15#12 } 0x2ABC)
      (fun t => t.pc == 0xABC#12 && t.sp == 16#12 && t.readStack 15 == 0x202#12) = true := by decide
theorem test_call_overflow : faults (after { State.reset with sp := 16#12 } 0x2ABC) .stackOverflow = true := by decide
theorem test_ret_full_stack :
    ends (after { State.reset with sp := 16#12, stack := State.reset.stack.set 15 0x400#12 } 0x00EE)
      (fun t => t.pc == 0x400#12 && t.sp == 15#12 && t.readStack 15 == 0x400#12) = true := by decide
theorem test_ret_faults :
    faults (after State.reset 0x00EE) .stackUnderflow = true ∧
    faults (after { State.reset with sp := 17#12 } 0x00EE) .stackOverflow = true := by decide
theorem test_jp_v0_wraps : ends (after (regs [(0x0#4, 0xFF#8)]) 0xBFFF) (fun t => t.pc == 0x0FE#12) = true := by decide

/-! ## One step: skips -/

theorem test_se_imm :
    ends (after (regs [(0xA#4, 0x12#8)]) 0x3A12) (fun t => t.pc == 0x204#12) = true ∧
    ends (after (regs [(0xA#4, 0x13#8)]) 0x3A12) (fun t => t.pc == 0x202#12) = true := by decide
theorem test_se_imm_wraps :
    ends (after { State.reset with pc := 0xFFE#12 } 0x3000) (fun t => t.pc == 0x002#12) = true := by decide
theorem test_sne_imm :
    ends (after (regs [(0xA#4, 0x13#8)]) 0x4A12) (fun t => t.pc == 0x204#12) = true ∧
    ends (after (regs [(0xA#4, 0x12#8)]) 0x4A12) (fun t => t.pc == 0x202#12) = true := by decide
theorem test_se_reg :
    ends (after (regs [(0x1#4, 7#8), (0x2#4, 7#8)]) 0x5120) (fun t => t.pc == 0x204#12) = true ∧
    ends (after (regs [(0x1#4, 7#8), (0x2#4, 8#8)]) 0x5120) (fun t => t.pc == 0x202#12) = true := by decide
theorem test_se_reg_n :
    ends (after (regs [(0x1#4, 7#8), (0x2#4, 7#8)]) 0x5121) (fun t => t.pc == 0x202#12) = true ∧
    ends (after (under fun p => { p with skipRegN := .ignoreN }) 0x5121) (fun t => t.pc == 0x204#12) = true := by decide
theorem test_sne_reg :
    ends (after (regs [(0x1#4, 7#8), (0x2#4, 8#8)]) 0x9120) (fun t => t.pc == 0x204#12) = true ∧
    ends (after (regs [(0x1#4, 7#8), (0x2#4, 7#8)]) 0x9120) (fun t => t.pc == 0x202#12) = true := by decide
theorem test_skp :
    ends (after (withKeys (regs [(0x3#4, 5#8)]) [5]) 0xE39E) (fun t => t.pc == 0x204#12) = true ∧
    ends (after (regs [(0x3#4, 5#8)]) 0xE39E) (fun t => t.pc == 0x202#12) = true := by decide
theorem test_skp_key_index :
    faults (after (withKeys (regs [(0x3#4, 0x10#8)]) [0]) 0xE39E) .keyIndex = true ∧
    ends (after (withKeys (withV (under fun p => { p with keyIndex := .lowNibble }) [(0x3#4, 0x10#8)]) [0]) 0xE39E)
      (fun t => t.pc == 0x204#12 && !t.halted) = true := by decide
theorem test_sknp :
    ends (after (regs [(0x3#4, 5#8)]) 0xE3A1) (fun t => t.pc == 0x204#12) = true ∧
    ends (after (withKeys (regs [(0x3#4, 5#8)]) [5]) 0xE3A1) (fun t => t.pc == 0x202#12) = true := by decide
theorem test_sknp_key_index : faults (after (regs [(0x3#4, 0x10#8)]) 0xE3A1) .keyIndex = true := by decide

/-! ## One step: loads, arithmetic, logic, random -/

theorem test_ld_imm : ends (after State.reset 0x6AFF) (fun t => t.readV 0xA#4 == 0xFF#8) = true := by decide
theorem test_add_imm_no_flag :
    ends (after (regs [(0xA#4, 0xFF#8)]) 0x7A01) (fun t => t.readV 0xA#4 == 0#8 && t.readV VF == 0#8) = true ∧
    ends (after (regs [(VF, 1#8)]) 0x7FFF) (fun t => t.readV VF == 0#8) = true := by decide
theorem test_ld_reg : ends (after (regs [(0x2#4, 0x55#8)]) 0x8120) (fun t => t.readV 0x1#4 == 0x55#8) = true := by decide
theorem test_or :
    ends (after (regs [(0x1#4, 0xF0#8), (0x2#4, 0x0F#8), (VF, 7#8)]) 0x8121)
      (fun t => t.readV 0x1#4 == 0xFF#8 && t.readV VF == 7#8) = true := by decide
theorem test_and :
    ends (after (regs [(0x1#4, 0xF0#8), (0x2#4, 0x3C#8), (VF, 7#8)]) 0x8122)
      (fun t => t.readV 0x1#4 == 0x30#8 && t.readV VF == 7#8) = true := by decide
theorem test_xor :
    ends (after (regs [(0x1#4, 0xFF#8), (0x2#4, 0x0F#8), (VF, 7#8)]) 0x8123)
      (fun t => t.readV 0x1#4 == 0xF0#8 && t.readV VF == 7#8) = true := by decide

/-- The snapshot order of R88. -/
def snapshot : State := under fun p => { p with vfOrder := .snapshot }

theorem test_add_reg :
    ends (after (regs [(0x0#4, 0xFF#8), (0x1#4, 0xFF#8)]) 0x8014)
      (fun t => t.readV 0x0#4 == 0xFE#8 && t.readV VF == 1#8) = true ∧
    ends (after (regs [(0x1#4, 0x80#8)]) 0x8114) (fun t => t.readV 0x1#4 == 0#8 && t.readV VF == 1#8) = true := by decide
theorem test_add_reg_vf_operand :
    ends (after (regs [(0x0#4, 0xFF#8), (VF, 2#8)]) 0x80F4)
      (fun t => t.readV 0x0#4 == 0#8 && t.readV VF == 1#8) = true ∧
    ends (after (withV snapshot [(0x0#4, 0xFF#8), (VF, 2#8)]) 0x80F4)
      (fun t => t.readV 0x0#4 == 1#8 && t.readV VF == 1#8) = true ∧
    ends (after (regs [(VF, 0x80#8)]) 0x8FF4) (fun t => t.readV VF == 2#8) = true := by decide
theorem test_sub_reg :
    ends (after (regs [(0x0#4, 5#8), (0x1#4, 5#8)]) 0x8015)
      (fun t => t.readV 0x0#4 == 0#8 && t.readV VF == 0#8) = true ∧
    ends (after (regs [(0x0#4, 5#8), (0x1#4, 3#8)]) 0x8015)
      (fun t => t.readV 0x0#4 == 2#8 && t.readV VF == 1#8) = true := by decide
theorem test_sub_reg_vf_operand :
    ends (after (regs [(VF, 5#8), (0x1#4, 3#8)]) 0x8F15) (fun t => t.readV VF == 0xFE#8) = true ∧
    ends (after (withV snapshot [(VF, 5#8), (0x1#4, 3#8)]) 0x8F15) (fun t => t.readV VF == 1#8) = true ∧
    ends (after (regs [(0x0#4, 5#8), (VF, 3#8)]) 0x80F5)
      (fun t => t.readV 0x0#4 == 4#8 && t.readV VF == 1#8) = true := by decide
theorem test_shr_ignores_vy :
    ends (after (regs [(0x0#4, 5#8)]) 0x8016) (fun t => t.readV 0x0#4 == 2#8 && t.readV VF == 1#8) = true ∧
    ends (after (regs [(0x0#4, 4#8), (0x1#4, 0xFF#8)]) 0x8016)
      (fun t => t.readV 0x0#4 == 2#8 && t.readV VF == 0#8) = true := by decide
theorem test_shr_vf_operand :
    ends (after (regs [(VF, 5#8)]) 0x8F06) (fun t => t.readV VF == 0#8) = true ∧
    ends (after (withV snapshot [(VF, 5#8)]) 0x8F06) (fun t => t.readV VF == 1#8) = true := by decide
theorem test_subn_reg :
    ends (after (regs [(0x0#4, 3#8), (0x1#4, 5#8)]) 0x8017)
      (fun t => t.readV 0x0#4 == 2#8 && t.readV VF == 1#8) = true ∧
    ends (after (regs [(0x0#4, 5#8), (0x1#4, 3#8)]) 0x8017)
      (fun t => t.readV 0x0#4 == 0xFE#8 && t.readV VF == 0#8) = true := by decide
theorem test_subn_reg_vf_operand :
    ends (after (regs [(VF, 3#8), (0x1#4, 5#8)]) 0x8F17) (fun t => t.readV VF == 4#8) = true ∧
    ends (after (regs [(0x0#4, 3#8), (VF, 5#8)]) 0x80F7)
      (fun t => t.readV 0x0#4 == 0xFE#8 && t.readV VF == 1#8) = true ∧
    ends (after (withV snapshot [(0x0#4, 3#8), (VF, 5#8)]) 0x80F7)
      (fun t => t.readV 0x0#4 == 2#8 && t.readV VF == 1#8) = true := by decide
theorem test_shl :
    ends (after (regs [(0x0#4, 0x81#8)]) 0x801E) (fun t => t.readV 0x0#4 == 2#8 && t.readV VF == 1#8) = true ∧
    ends (after (regs [(0x0#4, 0x40#8)]) 0x801E) (fun t => t.readV 0x0#4 == 0x80#8 && t.readV VF == 0#8) = true := by
  decide
theorem test_shl_vf_operand :
    ends (after (regs [(VF, 0x81#8)]) 0x8F0E) (fun t => t.readV VF == 2#8) = true ∧
    ends (after (withV snapshot [(VF, 0x81#8)]) 0x8F0E) (fun t => t.readV VF == 1#8) = true := by decide
theorem test_rnd :
    ends (after State.reset 0xC00F) (fun t => t.seed == 0x00269EC3#32 && t.readV 0x0#4 == 0x06#8) = true ∧
    ends (after { State.reset with seed := 0x1E278E7A#32 } 0xC0FF)
      (fun t => t.seed == 0xD2F65B55#32 && t.readV 0x0#4 == 0xF6#8) = true := by decide
theorem test_rnd_shift24 :
    ends (after (under fun p => { p with prngShift := .shift24 }) 0xC0FF)
      (fun t => t.seed == 0x00269EC3#32 && t.readV 0x0#4 == 0#8) = true := by decide

/-! ## One step: index and memory -/

theorem test_ld_i : ends (after State.reset 0xA123) (fun t => t.i == 0x123#12) = true := by decide
theorem test_add_i_wraps :
    ends (after { regs [(0x0#4, 2#8), (VF, 7#8)] with i := 0xFFF#12 } 0xF01E)
      (fun t => t.i == 0x001#12 && t.readV VF == 7#8) = true := by decide
theorem test_ld_f :
    ends (after (regs [(0x0#4, 0x0A#8)]) 0xF029) (fun t => t.i == 0x032#12) = true ∧
    ends (after (regs [(0x0#4, 0xFF#8)]) 0xF029) (fun t => t.i == 0x4FB#12) = true := by decide
theorem test_ld_b :
    ends (after { regs [(0x5#4, 0xFF#8)] with i := 0x300#12 } 0xF533)
      (fun t => t.readByte 0x300#12 == 2#8 && t.readByte 0x301#12 == 5#8 && t.readByte 0x302#12 == 5#8) = true := by
  decide
theorem test_ld_b_wraps :
    ends (after { regs [(0x5#4, 0x7B#8)] with i := 0xFFF#12 } 0xF533)
      (fun t => t.readByte 0xFFF#12 == 1#8 && t.readByte 0x000#12 == 2#8 && t.readByte 0x001#12 == 3#8 &&
        t.i == 0xFFF#12) = true := by decide
theorem test_store_regs :
    ends (after { regs [(0x0#4, 1#8), (0x1#4, 2#8), (0x2#4, 3#8), (0x3#4, 4#8)] with i := 0x400#12 } 0xF255)
      (fun t => t.readByte 0x400#12 == 1#8 && t.readByte 0x401#12 == 2#8 && t.readByte 0x402#12 == 3#8 &&
        t.readByte 0x403#12 == 0#8 && t.i == 0x400#12) = true := by decide
theorem test_store_regs_wraps :
    ends (after { regs [(0x0#4, 1#8), (0x1#4, 2#8)] with i := 0xFFF#12 } 0xF155)
      (fun t => t.readByte 0xFFF#12 == 1#8 && t.readByte 0x000#12 == 2#8) = true := by decide
theorem test_load_regs :
    ends (after (withRam { State.reset with i := 0x300#12 } [(0x300#12, 1#8), (0x301#12, 2#8), (0x302#12, 3#8),
        (0x303#12, 4#8)]) 0xF265)
      (fun t => t.readV 0x0#4 == 1#8 && t.readV 0x1#4 == 2#8 && t.readV 0x2#4 == 3#8 && t.readV 0x3#4 == 0#8 &&
        t.i == 0x300#12) = true := by decide
theorem test_load_regs_all :
    ends (after (withRam { State.reset with i := 0x300#12 } [(0x30F#12, 0xAA#8)]) 0xFF65)
      (fun t => t.readV VF == 0xAA#8 && t.readV 0xE#4 == 0#8) = true := by decide

/-! ## One step: display, timers, keys -/

theorem test_cls :
    ends (after (withPixels State.reset [0, 2047]) 0x00E0) (fun t => pixelsAre t [] && t.drawPending) = true := by decide
/-- Vectors D2 and D4: clipping at the right edge, by coordinates and by index. -/
theorem test_drw_right_edge :
    ends (after (regs [(0x0#4, 0x3E#8)]) 0xD015)
      (fun t => pixelsAre t [62, 63, 126, 190, 254, 318, 319] && t.readV VF == 0#8 && t.drawPending) = true ∧
    ends (after (withV (under fun p => { p with drawAddr := .linear }) [(0x0#4, 0x3E#8)]) 0xD015)
      (fun t => pixelsAre t [62, 63, 64, 65, 126, 129, 190, 193, 254, 257, 318, 319, 320, 321]) = true := by decide
/-- Vector D12: a collision. -/
theorem test_drw_collision :
    ends (after (withPixels State.reset [1]) 0xD015)
      (fun t => t.readV VF == 1#8 && !t.pixel 1 && t.pixel 0 && t.pixel 2) = true := by decide
/-- The first row of vectors D14 and D15: the column is read from VF after VF is zeroed, and before. -/
theorem test_drw_vf_operand :
    ends (after (regs [(VF, 10#8)]) 0xDF01) (fun t => t.pixel 0 && !t.pixel 10 && t.readV VF == 0#8) = true ∧
    ends (after (withV snapshot [(VF, 10#8)]) 0xDF01) (fun t => !t.pixel 0 && t.pixel 10 && t.readV VF == 0#8) = true := by
  decide
theorem test_ld_vx_dt : ends (after { State.reset with dt := 0x3C#8 } 0xF307) (fun t => t.readV 0x3#4 == 0x3C#8) = true := by
  decide
theorem test_ld_dt_vx : ends (after (regs [(0x3#4, 5#8)]) 0xF315) (fun t => t.dt == 5#8 && t.st == 0#8) = true := by decide
theorem test_ld_st_vx : ends (after (regs [(0x3#4, 3#8)]) 0xF318) (fun t => t.st == 3#8 && t.dt == 0#8) = true := by decide
/-- `P_FX0A = wait_key`. -/
def waiting : State := under fun p => { p with fx0a := .waitKey }
theorem test_ld_vx_k_nop :
    ends (after (withKeys State.reset [7]) 0xF10A) (fun t => t.readV 0x1#4 == 0#8 && t.pc == 0x202#12) = true := by decide
theorem test_ld_vx_k_wait :
    ends (after (withKeys waiting [7, 9]) 0xF10A) (fun t => t.readV 0x1#4 == 7#8 && t.pc == 0x202#12) = true ∧
    ends (after waiting 0xF10A) (fun t => t.readV 0x1#4 == 0#8 && t.pc == 0x200#12) = true := by decide

/-! ## The fault state, the tick and the host's operations (spec/95_test_vectors.md sections 2.3, 2.4) -/

/-- A halted core with a word where it would fetch. -/
def halted : State := { (State.reset.raiseFault .stackOverflow) with dt := 3#8, clockRate := 20#32 }

theorem test_halted_step : ends (step halted) (fun t => t == halted) = true := by decide
/-- Vector T2: CLS then a pending draw ends the batch under vsync. -/
theorem test_tick_vsync :
    (match tick { (State.reset.placeWord 0x00E0#16) with clockRate := 10#32, vsync := true } with
      | .next (t, [.frameReady _]) => t.pc == 0x202#12 && t.drawPending
      | _ => false) = true := by decide
/-- Vector T5: ST is 1 after the cycle and 0 after the decrement, and no notification is raised. -/
theorem test_tick_sound :
    (match tick { ((regs [(0x0#4, 1#8)]).placeWord 0xF018#16) with clockRate := 1#32 } with
      | .next (t, []) => t.st == 0#8 && t.pc == 0x202#12
      | _ => false) = true := by decide
/-- Vector H11: a record with an SP above 16 is loaded, masked to 12 bits. -/
theorem test_load_state_masks :
    (State.reset.loadState { State.reset.saveState with sp := 0x1011, pc := 0x1202, i := 0xF300 }).sp = 0x011#12 ∧
    (State.reset.loadState { State.reset.saveState with sp := 0x1011, pc := 0x1202, i := 0xF300 }).pc = 0x202#12 ∧
    (State.reset.loadState { State.reset.saveState with sp := 0x1011, pc := 0x1202, i := 0xF300 }).i = 0x300#12 := by
  decide

/-! ## Witnesses: states and operands that meet the hypotheses of the statements of
Sys2Proof/Certificates/Slice0/Obligations.lean, one per clause, at the ends of its range -/

/-- The reset state with a word where it fetches. -/
def placed (w : Opcode) : State := State.reset.placeWord w

/-- The word a state fetches, as the statements write it. -/
def fetchedNat (s : State) : Nat := (s.readByte s.pc).toNat * 256 + (s.readByte (s.pc + 1#12)).toNat

/-- The step's next state, or the state itself. -/
def landing (s : State) (r : Result) : State :=
  match r with
  | .next t => t
  | .fault _ => s
  | .refused _ => s

/-- A record to load; its SP is legal. -/
def someRecord : SaveRecord where
  version := 0#32
  seed := 1#32
  v := Vector.replicate 16 1#8
  i := 0x300
  pc := 0x200
  sp := 16
  dt := 2#8
  st := 3#8
  stack := Vector.replicate 16 0xFFF
  ram := Vector.replicate 3584 0#8
  fb := Framebuffer.clear

theorem test_witness_StepRunsDecodedInstruction :
    (placed 0x1ABC#16).halted = false ∧
    decodeWord (placed 0x1ABC#16).params
      ((placed 0x1ABC#16).readByte (placed 0x1ABC#16).pc ++ (placed 0x1ABC#16).readByte ((placed 0x1ABC#16).pc + 1#12))
      = .ok (.jp 0xABC#12) ∧
    (placed 0x5121#16).halted = false ∧
    decodeWord (placed 0x5121#16).params
      ((placed 0x5121#16).readByte (placed 0x5121#16).pc ++ (placed 0x5121#16).readByte ((placed 0x5121#16).pc + 1#12))
      = .error .family5 := by decide
theorem test_witness_FamilyZeroSelection : defaultParams.family0 = .fullWord ∧ lowByteParams.family0 = .lowByte := by decide
/-- Words of each row of R56's table, at the ends of each range. -/
def noOpWords : List Opcode :=
  [0x0000#16, 0x00DF#16, 0x00EF#16, 0x0FFF#16, 0x5001#16, 0x5FFF#16, 0x8008#16, 0x8FFF#16, 0x9001#16, 0x9FFF#16,
    0xE09D#16, 0xEFA2#16, 0xF00A#16, 0xFFFF#16]
theorem fetchedNat_eq (s : State) : fetchedNat s = s.fetchWord.toNat := by
  rw [State.fetchWord, wordOfBytes, BitVec.toNat_append, ← Nat.shiftLeft_add_eq_or_of_lt (BitVec.isLt _),
    Nat.shiftLeft_eq, fetchedNat]
theorem fetchedNat_placed (w : Opcode) : fetchedNat (placed w) = w.toNat := by
  rw [fetchedNat_eq, placed, State.fetchWord_placeWord (by decide)]
theorem test_witness_NoOpEncodingsRunOnlyTheirFetch :
    (∀ w ∈ noOpWords, (placed w).halted = false ∧ fetchedNat (placed w) = w.toNat) ∧
    State.reset.params.family0 = .fullWord ∧ State.reset.params.skipRegN = .strict ∧ State.reset.params.fx0a = .nop :=
  ⟨fun w _ => ⟨rfl, fetchedNat_placed w⟩, rfl, rfl, rfl⟩
theorem test_witness_no_op_words : ∀ w ∈ noOpWords, NoOpWord w.toNat := by
  simp [noOpWords, NoOpWord]
/-- Each operation that leaves the fault state. -/
theorem test_witness_HaltedCoreRunsNoCycle :
    halted.halted = true ∧
    (∃ r, perform .initCore halted = .next r ∧ r.state.halted = false) ∧
    (∃ r, perform (.loadProgram [0x12#8] 1) halted = .next r ∧ r.state.halted = false) ∧
    (∃ r, perform .partialReset halted = .next r ∧ r.state.halted = false) ∧
    (∃ r, perform (.loadState someRecord) halted = .next r ∧ r.state.halted = false) :=
  ⟨rfl, ⟨_, rfl, rfl⟩, ⟨_, rfl, rfl⟩, ⟨_, rfl, rfl⟩, ⟨_, rfl, rfl⟩⟩
theorem test_witness_DecodeInvertsEncode :
    wellFormed defaultParams (.sys 0x000#12) = true ∧ wellFormed defaultParams (.sys 0xFFF#12) = true ∧
    wellFormed lowByteParams (.sys 0x1E1#12) = true ∧ wellFormed lowByteParams (.drw 0xF#4 0x0#4 0xF#4) = true := by decide
theorem test_witness_EncodeInvertsDecode :
    defaultParams.family0 = .fullWord ∧ defaultParams.skipRegN = .strict ∧
    decodeWord defaultParams 0x0000#16 = .ok (.sys 0x000#12) ∧
    decodeWord defaultParams 0xFF65#16 = .ok (.loadRegs 0xF#4) := by decide
theorem test_witness_DecoderRejectsExactlyTheNoOpEncodings :
    defaultParams.family0 = .fullWord ∧ defaultParams.skipRegN = .strict ∧
    decodeWord defaultParams 0x5121#16 = .error .family5 ∧ decodeWord defaultParams 0xFFFF#16 = .error .familyF := by
  decide
theorem test_witness_StoredWordRunsNext :
    Memory.wf State.reset.params.font State.reset.mem = true ∧
    wellFormed State.reset.params (.drw 0xF#4 0x0#4 0xF#4) = true := by decide
theorem test_witness_reset_Inv : State.reset.Inv := ⟨rfl, Nat.zero_le _, ⟨by decide, by decide⟩⟩
/-- An instruction's step, and the step that faults, from a state that meets the invariant. -/
theorem test_witness_StepKeepsInv :
    (placed 0x1ABC#16).Inv ∧ (∃ t, step (placed 0x1ABC#16) = .next t) ∧
    (placed 0x00EE#16).Inv ∧ ∃ t, step (placed 0x00EE#16) = .next t :=
  ⟨⟨rfl, Nat.zero_le _, ⟨by decide, by decide⟩⟩, ⟨_, rfl⟩, ⟨rfl, Nat.zero_le _, ⟨by decide, by decide⟩⟩, ⟨_, rfl⟩⟩
theorem test_witness_HostOperationsKeepInv :
    State.reset.Inv ∧ (∃ r, perform .tick State.reset = .next r) ∧
    (∃ r, perform (.loadProgram [0x12#8, 0x00#8] 2) State.reset = .next r) ∧
    (∃ r, perform (.loadState someRecord) State.reset = .next r) ∧
    ∀ rec, HostOp.tick ≠ .loadState rec :=
  ⟨test_witness_reset_Inv, ⟨_, rfl⟩, ⟨_, rfl⟩, ⟨_, rfl⟩, fun _ h => HostOp.noConfusion h⟩
theorem test_witness_StepLeavesHostStateAlone : ∃ t, step (placed 0xF318#16) = .next t := ⟨_, rfl⟩
/-- One next state for each kind of instruction the statement names as a writer, and for one that it does not. -/
theorem test_witness_EachPieceOfStateHasItsWriters :
    ∀ i ∈ [Instr.rnd 0x0#4 0xFF#8, .ldI 0xFFF#12, .addI 0x0#4, .ldF 0xF#4, .call 0x300#12, .ret, .cls, .drw 0x0#4 0x1#4 0x1#4,
      .ldB 0x0#4, .storeRegs 0xF#4, .ldDtVx 0x0#4, .ldStVx 0x0#4, .jp 0x200#12, .seImm 0x0#4 0x00#8, .skp 0x0#4,
      .ldVxK 0x0#4, .sys 0x000#12],
      ∃ t, exec i State.reset = .next t := by
  intro i hi
  fin_cases hi <;> exact ⟨_, rfl⟩
/-- Registers on both sides of what an instruction may write. -/
theorem test_witness_MayWriteV :
    ¬ MayWriteV (.loadRegs 0xE#4) 0xF#4 ∧ ¬ MayWriteV (.addReg 0x0#4 0x1#4) 0x1#4 ∧ ¬ MayWriteV (.ldImm 0x0#4 0xFF#8) VF ∧
    ¬ MayWriteV (.drw 0x0#4 0x1#4 0x5#4) 0x0#4 ∧ ¬ MayWriteV .cls 0x0#4 := by
  simp only [MayWriteV]
  decide
/-- Each row of R116's table. -/
theorem test_witness_FaultsAriseOnlyAsListed :
    State.reset.halted = false ∧
    (∃ t, exec (.call 0x300#12) { State.reset with sp := 16#12 } = .next t ∧ t.halted = true) ∧
    (∃ t, exec .ret { State.reset with sp := 17#12 } = .next t ∧ t.halted = true) ∧
    (∃ t, exec .ret State.reset = .next t ∧ t.halted = true) ∧
    (∃ t, exec (.skp 0x3#4) (regs [(0x3#4, 16#8)]) = .next t ∧ t.halted = true) ∧
    (∃ t, exec (.sknp 0x3#4) (regs [(0x3#4, 0xFF#8)]) = .next t ∧ t.halted = true) :=
  ⟨rfl, ⟨_, rfl, rfl⟩, ⟨_, rfl, rfl⟩, ⟨_, rfl, rfl⟩, ⟨_, rfl, rfl⟩, ⟨_, rfl, rfl⟩⟩
theorem test_witness_FaultsArePrecise :
    (placed 0x00EE#16).halted = false ∧ ∃ t, step (placed 0x00EE#16) = .next t ∧ t.halted = true := ⟨rfl, _, rfl, rfl⟩
theorem test_witness_DecodeScratchIsUnobservable : State.reset.halted = false := rfl
theorem test_witness_InstructionsDoNotReadHostState :
    (∃ t, exec .cls State.reset = .next t) ∧ (∃ t, exec (.ldStVx 0x0#4) State.reset = .next t) ∧
    ∃ t, exec (.jp 0x200#12) State.reset = .next t := ⟨⟨_, rfl⟩, ⟨_, rfl⟩, ⟨_, rfl⟩⟩
theorem test_witness_CallPushesOrOverflows :
    ({ State.reset with sp := 0#12 } : State).sp.toNat < 16 ∧ ({ State.reset with sp := 15#12 } : State).sp.toNat < 16 ∧
    16 ≤ ({ State.reset with sp := 16#12 } : State).sp.toNat := by decide
theorem test_witness_RetPopsOrFaults :
    (0 < ({ State.reset with sp := 1#12 } : State).sp.toNat ∧ ({ State.reset with sp := 16#12 } : State).sp.toNat ≤ 16) ∧
    ({ State.reset with sp := 0#12 } : State).sp.toNat = 0 ∧ 16 < ({ State.reset with sp := 17#12 } : State).sp.toNat := by
  decide
/-- Equal and unequal operands of the skips. -/
theorem test_witness_skips :
    (regs [(0xA#4, 0x12#8)]).readV 0xA#4 = 0x12#8 ∧ (regs [(0xA#4, 0x13#8)]).readV 0xA#4 ≠ 0x12#8 ∧
    (regs [(0x1#4, 7#8), (0x2#4, 7#8)]).readV 0x1#4 = (regs [(0x1#4, 7#8), (0x2#4, 7#8)]).readV 0x2#4 ∧
    (regs [(0x1#4, 7#8), (0x2#4, 8#8)]).readV 0x1#4 ≠ (regs [(0x1#4, 7#8), (0x2#4, 8#8)]).readV 0x2#4 := by decide
theorem test_witness_RegisterSkips :
    defaultParams.skipRegN = .strict ∧ (0x1#4 : Nibble) ≠ 0x0#4 ∧ (0xF#4 : Nibble) ≠ 0x0#4 ∧
    ({ defaultParams with skipRegN := .ignoreN } : Params).skipRegN = .ignoreN := by decide
/-- V3 at 15 and at 16, the key pressed and not, both values of `P_KEY_INDEX`. -/
theorem test_witness_KeySkips :
    ((regs [(0x3#4, 15#8)]).readV 0x3#4).toNat ≤ 15 ∧
    (under fun p => { p with keyIndex := .lowNibble }).params.keyIndex = .lowNibble ∧
    (withKeys (regs [(0x3#4, 15#8)]) [15]).key (((regs [(0x3#4, 15#8)]).readV 0x3#4).toNat % 16) = true ∧
    (regs [(0x3#4, 15#8)]).key (((regs [(0x3#4, 15#8)]).readV 0x3#4).toNat % 16) = false ∧
    15 < ((regs [(0x3#4, 16#8)]).readV 0x3#4).toNat ∧ (regs [(0x3#4, 16#8)]).params.keyIndex = .fault := by decide
theorem test_witness_both_vf_orders :
    State.reset.params.vfOrder = .sequential ∧ snapshot.params.vfOrder = .snapshot := by decide
theorem test_witness_VfOrdersAgreeWithoutVfOperand : (0x0#4 : Reg) ≠ 0xF#4 ∧ (0xE#4 : Reg) ≠ 0xF#4 := by decide
theorem test_witness_RndDrawsOneByte :
    State.reset.params.prngShift = .shift16 ∧
    (under fun p => { p with prngShift := .shift24 }).params.prngShift = .shift24 ∧ (0xE#4 : Reg) ≠ 0xF#4 := by decide
/-- The canonical memory of BCD and of the block store, and registers on both sides of the last one transferred. -/
theorem test_witness_transfers :
    Memory.wf State.reset.params.font State.reset.mem = true ∧
    (0x2#4 : Reg).toNat ≤ (0x2#4 : Reg).toNat ∧ (0x2#4 : Reg).toNat < (0x3#4 : Reg).toNat ∧
    (0xF#4 : Reg).toNat ≤ (0xF#4 : Reg).toNat := by decide
theorem test_witness_PlaceFollowsRule :
    (defaultParams.drawAddr = .coordinate ∧ defaultParams.wrap = false) ∧
    (({ defaultParams with wrap := true } : Params).drawAddr = .coordinate ∧
      ({ defaultParams with wrap := true } : Params).wrap = true) ∧
    (({ defaultParams with drawAddr := .linear } : Params).drawAddr = .linear ∧
      ({ defaultParams with drawAddr := .linear } : Params).wrap = false) ∧
    (({ defaultParams with drawAddr := .linear, wrap := true } : Params).drawAddr = .linear ∧
      ({ defaultParams with drawAddr := .linear, wrap := true } : Params).wrap = true) := by decide
/-- The first row of glyph 0 at (0, 0) covers pixel 0, which is on; pixel 4 is not covered under row 0 alone. -/
theorem test_witness_DrwFlipsCoveredPixels :
    ((0x0#4 : Reg) ≠ 0xF#4 ∧ (0x1#4 : Reg) ≠ 0xF#4) ∧ snapshot.params.vfOrder = .snapshot ∧
    (∃ t, exec (.drw 0x0#4 0x1#4 0x5#4) (withPixels State.reset [0]) = .next t) ∧
    (∃ t, exec (.drw 0xF#4 0x1#4 0x1#4) snapshot = .next t) ∧
    SpriteCovers (withPixels State.reset [0]) 0x0#4 0x1#4 0x5#4 0 ∧ (withPixels State.reset [0]).pixel 0 = true :=
  ⟨by decide, rfl, ⟨_, rfl⟩, ⟨_, rfl⟩, ⟨0, by decide, 0, by decide, by decide, by decide⟩, by decide⟩
/-- On a dark display glyph 0 covers pixel 0, and every pixel it covers is off. -/
theorem test_witness_DrwFlipsCoveredPixels_no_collision :
    SpriteCovers State.reset 0x0#4 0x1#4 0x5#4 0 ∧
    ∀ q, SpriteCovers State.reset 0x0#4 0x1#4 0x5#4 q → State.reset.pixel q = false :=
  ⟨⟨0, by decide, 0, by decide, by decide, by decide⟩, fun q _ => Framebuffer.pixel_clear q⟩
theorem test_witness_DrawingTwiceRestores :
    (∃ t, exec (.drw 0x0#4 0x1#4 0x1#4) State.reset = .next t ∧ ∃ u, exec (.drw 0x0#4 0x1#4 0x1#4) t = .next u) ∧
    SpriteCovers State.reset 0x0#4 0x1#4 0x1#4 0 ∧ State.reset.pixel 0 = false :=
  ⟨⟨_, rfl, _, rfl⟩, ⟨0, by decide, 0, by decide, by decide, by decide⟩, by decide⟩
/-- `nop`; `wait_key` with key 0 first, with key 15 alone, with no key. -/
theorem test_witness_KeyWait :
    State.reset.params.fx0a = .nop ∧ waiting.params.fx0a = .waitKey ∧ (withKeys waiting [0, 15]).key 0 = true ∧
    ((withKeys waiting [15]).key 15 = true ∧ ∀ j < 15, (withKeys waiting [15]).key j = false) ∧
    ∀ k < 16, waiting.key k = false := by decide
theorem test_witness_TickWithoutCyclesLowersTimers :
    ({ State.reset with clockRate := 0#32 } : State).clockRate = 0#32 ∧ halted.halted = true ∧ halted.clockRate ≠ 0#32 := by
  decide
/-- A tick that ends with a draw pending, and one that ends with the sound active and not reported. -/
theorem test_witness_TickRaisesNotifications :
    (∃ t notes, tick { (placed 0x00E0#16) with clockRate := 1#32 } = .next (t, notes) ∧ t.drawPending = true) ∧
    ∃ t notes, tick { State.reset with st := 2#8 } = .next (t, notes) ∧ 0 < t.st.toNat :=
  ⟨⟨_, _, rfl, rfl⟩, ⟨_, _, rfl, by decide⟩⟩
theorem test_witness_address_ranges :
    (0x04F#12 : Addr).toNat < 80 ∧ 80 ≤ (0x050#12 : Addr).toNat ∧ (0x04F#12 : Addr).toNat < 0x050 ∧
    (0x1FF#12 : Addr).toNat < 0x200 ∧ 0x200 + 1 ≤ (0x201#12 : Addr).toNat := by decide
/-- Lengths 0, 1, 3584 and 3585. -/
theorem test_witness_LoadProgramInstallsOrRejects :
    (0 = 0 ∨ 0 > 3584) ∧ (3585 = 0 ∨ 3585 > 3584) ∧ (0 < 1 ∧ 1 ≤ 3584 ∧ 1 ≤ [0x12#8].length) ∧
    (0 < 3584 ∧ 3584 ≤ 3584 ∧ 3584 ≤ (List.replicate 3584 (0#8 : Byte)).length) :=
  ⟨by decide, by decide, by decide, by decide, by decide, by rw [List.length_replicate]⟩
theorem test_witness_KeysAndQueries : 15 ≤ 15 ∧ 15 < 16 ∧ (63 ≤ 63 ∧ 31 ≤ 31) ∧ (63 < 64 ∨ 31 < 0) ∧ (63 < 0 ∨ 31 < 32) := by
  decide
theorem test_witness_SaveThenLoadReproduces :
    ∀ a : Addr, a.toNat < 0x200 → (placed 0x1ABC#16).clearDraw.readByte a = (placed 0x1ABC#16).readByte a := fun _ _ => rfl
theorem test_witness_UnhaltedRunNeverFaulted :
    (∀ o ∈ [HostOp.setKey 3 true] ++ [.tick], o ≠ .initCore ∧ (∀ bytes length, o ≠ .loadProgram bytes length) ∧
      o ≠ .partialReset ∧ ∀ rec, o ≠ .loadState rec) ∧
    ∃ t notes, performAll ([.setKey 3 true] ++ [.tick]) State.reset = .next (t, notes) ∧ ¬ t.HasFaulted := by
  refine ⟨?_, _, _, rfl, Bool.false_ne_true⟩
  intro o ho
  fin_cases ho <;> exact ⟨HostOp.noConfusion, fun _ _ => HostOp.noConfusion, HostOp.noConfusion, fun _ => HostOp.noConfusion⟩

/-- A run, one byte and 3584 bytes long; no run: an empty program, 3585 bytes, a Reset in the sequence (R142, R149; vectors
H1 to H3). -/
theorem test_run_launch :
    hostRun defaultParams [] [.tick] = none ∧ (launch defaultParams [0x12#8]).isSome = true ∧
    (launch defaultParams (List.replicate 3584 0#8)).isSome = true ∧
    launch defaultParams (List.replicate 3585 0#8) = none ∧
    hostRun defaultParams [0x12#8, 0x00#8] [.tick, .partialReset] = none :=
  ⟨by rw [hostRun, launch_illegal (.inl rfl)]; rfl, rfl,
    by rw [launch_legal (by rw [List.length_replicate]; omega) (by rw [List.length_replicate])]; rfl,
    launch_illegal (.inr (by rw [List.length_replicate]; omega)) _, rfl⟩
/-- Whether the sequence is one that the statement allows. -/
def allowedOps (ops : List HostOp) : Prop :=
  ∀ o ∈ ops, (∃ k b, o = .setKey k b) ∨ o = .getClockRate ∨ (∃ n, o = .setClockRate n) ∨ (∃ b, o = .setVsync b) ∨
    o = .shouldPresentFrame ∨ o = .isSoundActive ∨ (∃ x y, o = .getPixel x y) ∨ o = .tick ∨ o = .readState
theorem test_witness_RunIsALaunchThenOperations :
    (0 < [0x12#8].length ∧ [0x12#8].length ≤ 3584) ∧ ([] : List Byte).length = 0 ∧
    3584 < (List.replicate 3585 (0#8 : Byte)).length ∧ allowedOps [.setKey 3 true, .tick] ∧ ¬ allowedOps [.partialReset] :=
  ⟨by decide, rfl, by rw [List.length_replicate]; omega, by simp [allowedOps], by simp [allowedOps]⟩
theorem test_witness_UnhaltedRunIsUnhaltedThroughout :
    ∃ t notes, hostRun defaultParams [0x12#8, 0x00#8] ([.setClockRate 1, .setKey 3 true] ++ [.tick]) = some (.next (t, notes)) ∧
      ¬ t.HasFaulted :=
  ⟨_, _, rfl, Bool.false_ne_true⟩

end Sys2Proof.Tests
end

/-! SUPPORT. The state that belongs to the host: what no instruction and no step writes (R7, R26, R29, R31). -/

namespace Sys2Proof.Machine

/-- What only the host's operations write, or nothing does: the keys (R26), the configuration (R29), the sound latch
(R31) and the parameters (R7; log entry 1). -/
structure HostState where
  keys : Vector Bool 16
  clockRate : Word32
  vsync : Bool
  soundLatch : Bool
  params : Params

/-- The host's part of a state. -/
def State.hostState (s : State) : HostState := ⟨s.keys, s.clockRate, s.vsync, s.soundLatch, s.params⟩

/-- Equal host parts are equal fields. -/
theorem State.hostState_eq_iff {s t : State} :
    t.hostState = s.hostState ↔
      t.keys = s.keys ∧ t.clockRate = s.clockRate ∧ t.vsync = s.vsync ∧ t.soundLatch = s.soundLatch ∧
        t.params = s.params := by
  rw [State.hostState, State.hostState, HostState.mk.injEq]

/-! ## The shared operations -/

@[simp] theorem State.hostState_fetched (s : State) : s.fetched.hostState = s.hostState := rfl

@[simp] theorem State.hostState_skipIf (s : State) (c : Bool) : (s.skipIf c).hostState = s.hostState := by
  cases c <;> rfl

@[simp] theorem State.hostState_writeFlagged (s : State) (x y : Reg) (f r : Byte → Byte → Byte) :
    (s.writeFlagged x y f r).hostState = s.hostState := by
  rw [State.writeFlagged_eq]; rfl

@[simp] theorem State.hostState_storeBlock (s : State) (n : Nat) : (s.storeBlock n).hostState = s.hostState := by
  rw [State.storeBlock_eq]; rfl

@[simp] theorem State.hostState_loadBlock (s : State) (n : Nat) : (s.loadBlock n).hostState = s.hostState := by
  rw [State.loadBlock_eq]; rfl

/-! ## The instructions with several outcomes: a fault is one of them, and leaves the host's part alone too -/

theorem execRet_keeps_hostState (s : State) : ∃ t, execRet s = .next t ∧ t.hostState = s.hostState := by
  unfold execRet
  split
  · exact ⟨_, rfl, rfl⟩
  · split <;> exact ⟨_, rfl, rfl⟩

theorem execCall_keeps_hostState (nnn : Addr) (s : State) :
    ∃ t, execCall nnn s = .next t ∧ t.hostState = s.hostState := by
  unfold execCall
  split <;> exact ⟨_, rfl, rfl⟩

theorem execSkp_keeps_hostState (x : Reg) (s : State) : ∃ t, execSkp x s = .next t ∧ t.hostState = s.hostState := by
  unfold execSkp
  split
  · exact ⟨_, rfl, rfl⟩
  · exact ⟨_, rfl, s.hostState_skipIf _⟩

theorem execSknp_keeps_hostState (x : Reg) (s : State) : ∃ t, execSknp x s = .next t ∧ t.hostState = s.hostState := by
  unfold execSknp
  split
  · exact ⟨_, rfl, rfl⟩
  · exact ⟨_, rfl, s.hostState_skipIf _⟩

theorem execLdVxK_keeps_hostState (x : Reg) (s : State) :
    ∃ t, execLdVxK x s = .next t ∧ t.hostState = s.hostState := by
  unfold execLdVxK
  split
  · exact ⟨_, rfl, rfl⟩
  · split <;> exact ⟨_, rfl, rfl⟩

/-! ## Every instruction, every step -/

/-- Every instruction answers a next state, with the host's part as it was. The last arm holds the instructions whose
meaning is one record update of other fields. -/
theorem exec_keeps_hostState (i : Instr) (s : State) : ∃ t, exec i s = .next t ∧ t.hostState = s.hostState :=
  match i with
  | .ret => execRet_keeps_hostState s
  | .call nnn => execCall_keeps_hostState nnn s
  | .seImm _ _ | .sneImm _ _ | .seReg _ _ | .sneReg _ _ => ⟨_, rfl, s.hostState_skipIf _⟩
  | .addReg _ _ | .subReg _ _ | .shr _ _ | .subnReg _ _ | .shl _ _ => ⟨_, rfl, s.hostState_writeFlagged ..⟩
  | .skp x => execSkp_keeps_hostState x s
  | .sknp x => execSknp_keeps_hostState x s
  | .ldVxK x => execLdVxK_keeps_hostState x s
  | .storeRegs _ => ⟨_, rfl, s.hostState_storeBlock _⟩
  | .loadRegs _ => ⟨_, rfl, s.hostState_loadBlock _⟩
  | .cls | .sys _ | .jp _ | .ldImm _ _ | .addImm _ _ | .ldReg _ _ | .orReg _ _ | .andReg _ _ | .xorReg _ _ | .ldI _
  | .jpV0 _ | .rnd _ _ | .drw _ _ _ | .ldVxDt _ | .ldDtVx _ | .ldStVx _ | .addI _ | .ldF _ | .ldB _ => ⟨_, rfl, rfl⟩

theorem hostState_of_exec {i : Instr} {s t : State} (h : exec i s = .next t) : t.hostState = s.hostState := by
  obtain ⟨u, hu, hkeeps⟩ := exec_keeps_hostState i s
  obtain rfl : u = t := Host.Outcome.next.inj (hu.symm.trans h)
  exact hkeeps

theorem hostState_of_step {s t : State} (h : step s = .next t) : t.hostState = s.hostState := by
  obtain ⟨-, rfl⟩ | ⟨-, i, -, hexec⟩ | ⟨-, e, -, rfl⟩ := step_cases h
  · rfl
  · rw [hostState_of_exec hexec, State.hostState_fetched]
  · exact s.hostState_fetched

/-- Settles O16: neither a halted step, nor a fetch, nor an instruction writes the host's part of the state. -/
theorem stepLeavesHostStateAlone : Obligations.StepLeavesHostStateAlone :=
  fun _ _ h => State.hostState_eq_iff.1 (hostState_of_step h)

end Sys2Proof.Machine

/-! SUPPORT. What an instruction can answer (an equation per case for the meanings that have several, and one frame for
all 35), and from it who writes each piece of state (R14 to R30). -/

namespace Sys2Proof.Machine

/-! ## The meanings with several outcomes, an equation per case -/

theorem execRet_empty {s : State} (h : s.sp.toNat = 0) : execRet s = .next (s.raiseFault .stackUnderflow) := if_pos h

theorem execRet_overfull {s : State} (h : 16 < s.sp.toNat) : execRet s = .next (s.raiseFault .stackOverflow) := by
  rw [execRet, if_neg (by omega), if_pos h]

theorem execRet_pop {s : State} (h0 : 0 < s.sp.toNat) (h16 : s.sp.toNat ≤ 16) : execRet s = .next s.popPc := by
  rw [execRet, if_neg (by omega), if_neg (by omega)]

theorem execCall_full {s : State} (h : 16 ≤ s.sp.toNat) (nnn : Addr) :
    execCall nnn s = .next (s.raiseFault .stackOverflow) := if_pos h

theorem execCall_push {s : State} (h : s.sp.toNat < 16) (nnn : Addr) :
    execCall nnn s = .next ((s.push s.pc).setPc nnn) := if_neg (by omega)

theorem execSkp_noKey {s : State} {x : Reg} (h : keyIndex s.params.keyIndex (s.readV x) = none) :
    execSkp x s = .next (s.raiseFault .keyIndex) := by
  rw [execSkp, h]

theorem execSkp_key {s : State} {x : Reg} {k : Nat} (h : keyIndex s.params.keyIndex (s.readV x) = some k) :
    execSkp x s = .next (s.skipIf (s.key k)) := by
  rw [execSkp, h]

theorem execSknp_noKey {s : State} {x : Reg} (h : keyIndex s.params.keyIndex (s.readV x) = none) :
    execSknp x s = .next (s.raiseFault .keyIndex) := by
  rw [execSknp, h]

theorem execSknp_key {s : State} {x : Reg} {k : Nat} (h : keyIndex s.params.keyIndex (s.readV x) = some k) :
    execSknp x s = .next (s.skipIf (!s.key k)) := by
  rw [execSknp, h]

theorem execLdVxK_nop {s : State} (h : s.params.fx0a = .nop) (x : Reg) : execLdVxK x s = .next s := by
  rw [execLdVxK, h]

theorem execLdVxK_key {s : State} {k : Nat} (h : s.params.fx0a = .waitKey) (hk : s.lowestKey = some k) (x : Reg) :
    execLdVxK x s = .next (s.writeV x (BitVec.ofNat 8 k)) := by
  simp only [execLdVxK, h, hk]

theorem execLdVxK_noKey {s : State} (h : s.params.fx0a = .waitKey) (hk : s.lowestKey = none) (x : Reg) :
    execLdVxK x s = .next (s.setPc (s.pc - 2#12)) := by
  simp only [execLdVxK, h, hk]

/-- RET pops a legal entry or faults (R75). -/
theorem execRet_cases (s : State) :
    (0 < s.sp.toNat ∧ s.sp.toNat ≤ 16 ∧ execRet s = .next s.popPc) ∨
      ∃ c, c ≠ .none ∧ execRet s = .next (s.raiseFault c) := by
  rcases Nat.eq_zero_or_pos s.sp.toNat with h0 | h0
  · exact .inr ⟨_, by decide, execRet_empty h0⟩
  · rcases Nat.lt_or_ge 16 s.sp.toNat with h16 | h16
    · exact .inr ⟨_, by decide, execRet_overfull h16⟩
    · exact .inl ⟨h0, h16, execRet_pop h0 h16⟩

/-- CALL pushes onto a stack with room or faults (R77). -/
theorem execCall_cases (nnn : Addr) (s : State) :
    (s.sp.toNat < 16 ∧ execCall nnn s = .next ((s.push s.pc).setPc nnn)) ∨
      ∃ c, c ≠ .none ∧ execCall nnn s = .next (s.raiseFault c) := by
  rcases Nat.lt_or_ge s.sp.toNat 16 with h | h
  · exact .inl ⟨h, execCall_push h nnn⟩
  · exact .inr ⟨_, by decide, execCall_full h nnn⟩

/-- SKP skips on a condition or faults (R85). -/
theorem execSkp_cases (x : Reg) (s : State) :
    (∃ b, execSkp x s = .next (s.skipIf b)) ∨ ∃ c, c ≠ .none ∧ execSkp x s = .next (s.raiseFault c) := by
  cases h : keyIndex s.params.keyIndex (s.readV x) with
  | none => exact .inr ⟨_, by decide, execSkp_noKey h⟩
  | some k => exact .inl ⟨_, execSkp_key h⟩

/-- SKNP skips on a condition or faults (R86). -/
theorem execSknp_cases (x : Reg) (s : State) :
    (∃ b, execSknp x s = .next (s.skipIf b)) ∨ ∃ c, c ≠ .none ∧ execSknp x s = .next (s.raiseFault c) := by
  cases h : keyIndex s.params.keyIndex (s.readV x) with
  | none => exact .inr ⟨_, by decide, execSknp_noKey h⟩
  | some k => exact .inl ⟨_, execSknp_key h⟩

/-- Fx0A does nothing under `nop`; under `wait_key` it writes Vx or moves PC (R115). -/
theorem execLdVxK_cases (x : Reg) (s : State) :
    (s.params.fx0a = .nop ∧ execLdVxK x s = .next s) ∨
      (s.params.fx0a = .waitKey ∧
        ((∃ b, execLdVxK x s = .next (s.writeV x b)) ∨ ∃ a, execLdVxK x s = .next (s.setPc a))) := by
  cases h : s.params.fx0a with
  | nop => exact .inl ⟨rfl, execLdVxK_nop h x⟩
  | waitKey =>
    cases hk : s.lowestKey with
    | some k => exact .inr ⟨rfl, .inl ⟨_, execLdVxK_key h hk x⟩⟩
    | none => exact .inr ⟨rfl, .inr ⟨_, execLdVxK_noKey h hk x⟩⟩

/-! ## The frame of every instruction -/

/-- The state `s` with the pieces taken from `t` that the instruction may write when it completes; a fault's own writes
are not among them. -/
def State.withWrites (s : State) (i : Instr) (t : State) : State :=
  match i with
  | .sys _ => s
  | .jp _ | .jpV0 _ | .seImm _ _ | .sneImm _ _ | .seReg _ _ | .sneReg _ _ | .skp _ | .sknp _ => { s with pc := t.pc }
  | .ret => { s with pc := t.pc, sp := t.sp }
  | .call _ => { s with pc := t.pc, sp := t.sp, stack := t.stack }
  | .ldImm _ _ | .addImm _ _ | .ldReg _ _ | .orReg _ _ | .andReg _ _ | .xorReg _ _ | .addReg _ _ | .subReg _ _
  | .shr _ _ | .subnReg _ _ | .shl _ _ | .ldVxDt _ | .loadRegs _ => { s with v := t.v }
  | .rnd _ _ => { s with v := t.v, seed := t.seed }
  | .ldI _ | .addI _ | .ldF _ => { s with i := t.i }
  | .ldB _ | .storeRegs _ => { s with mem := t.mem }
  | .cls => { s with fb := t.fb, drawPending := t.drawPending }
  | .drw _ _ _ => { s with v := t.v, fb := t.fb, drawPending := t.drawPending }
  | .ldDtVx _ => { s with dt := t.dt }
  | .ldStVx _ => { s with st := t.st }
  | .ldVxK _ => { s with v := t.v, pc := t.pc }

theorem State.skipIf_eq (s : State) (c : Bool) : s.skipIf c = { s with pc := (s.skipIf c).pc } := by
  cases c <;> rfl

/-- Every instruction completes and writes its own pieces only, or it is one of the four that fault, and the fault is its
only write (R63, R117). The last arm holds the instructions whose meaning is one record update. -/
theorem exec_outcome (i : Instr) (s : State) :
    ∃ t, exec i s = .next t ∧
      (t = s.withWrites i t ∨
        ((∃ a, i = .call a) ∨ i = .ret ∨ (∃ x, i = .skp x) ∨ (∃ x, i = .sknp x)) ∧
          ∃ c, c ≠ .none ∧ t = s.raiseFault c) :=
  match i with
  | .ret => by
    obtain ⟨-, -, h⟩ | ⟨c, hc, h⟩ := execRet_cases s
    · exact ⟨_, h, .inl rfl⟩
    · exact ⟨_, h, .inr ⟨.inr (.inl rfl), c, hc, rfl⟩⟩
  | .call nnn => by
    obtain ⟨-, h⟩ | ⟨c, hc, h⟩ := execCall_cases nnn s
    · exact ⟨_, h, .inl rfl⟩
    · exact ⟨_, h, .inr ⟨.inl ⟨_, rfl⟩, c, hc, rfl⟩⟩
  | .skp x => by
    obtain ⟨b, h⟩ | ⟨c, hc, h⟩ := execSkp_cases x s
    · exact ⟨_, h, .inl (s.skipIf_eq b)⟩
    · exact ⟨_, h, .inr ⟨.inr (.inr (.inl ⟨_, rfl⟩)), c, hc, rfl⟩⟩
  | .sknp x => by
    obtain ⟨b, h⟩ | ⟨c, hc, h⟩ := execSknp_cases x s
    · exact ⟨_, h, .inl (s.skipIf_eq b)⟩
    · exact ⟨_, h, .inr ⟨.inr (.inr (.inr ⟨_, rfl⟩)), c, hc, rfl⟩⟩
  | .ldVxK x => by
    obtain ⟨-, h⟩ | ⟨-, ⟨b, h⟩ | ⟨a, h⟩⟩ := execLdVxK_cases x s <;> exact ⟨_, h, .inl rfl⟩
  | .seImm _ _ | .sneImm _ _ | .seReg _ _ | .sneReg _ _ => ⟨_, rfl, .inl (s.skipIf_eq _)⟩
  | .addReg _ _ | .subReg _ _ | .shr _ _ | .subnReg _ _ | .shl _ _ => ⟨_, rfl, .inl (s.writeFlagged_eq ..)⟩
  | .storeRegs _ => ⟨_, rfl, .inl (s.storeBlock_eq _)⟩
  | .loadRegs _ => ⟨_, rfl, .inl (s.loadBlock_eq _)⟩
  | .cls | .sys _ | .jp _ | .ldImm _ _ | .addImm _ _ | .ldReg _ _ | .orReg _ _ | .andReg _ _ | .xorReg _ _ | .ldI _
  | .jpV0 _ | .rnd _ _ | .drw _ _ _ | .ldVxDt _ | .ldDtVx _ | .ldStVx _ | .addI _ | .ldF _ | .ldB _ =>
    ⟨_, rfl, .inl rfl⟩

section
variable {i : Instr} {s t : State}

/-- `exec_outcome` for an answer at hand. -/
theorem exec_cases (h : exec i s = .next t) :
    t = s.withWrites i t ∨
      ((∃ a, i = .call a) ∨ i = .ret ∨ (∃ x, i = .skp x) ∨ (∃ x, i = .sknp x)) ∧
        ∃ c, c ≠ .none ∧ t = s.raiseFault c := by
  obtain ⟨u, hu, hcases⟩ := exec_outcome i s
  obtain rfl : u = t := Host.Outcome.next.inj (hu.symm.trans h)
  exact hcases

/-- A piece that neither a fault nor the instruction's own writes touch keeps its value. -/
theorem exec_keeps {α : Type} {piece : State → α} (h : exec i s = .next t)
    (hown : piece (s.withWrites i t) = piece s) (hfault : ∀ c, piece (s.raiseFault c) = piece s) : piece t = piece s := by
  obtain hframe | ⟨-, c, -, rfl⟩ := exec_cases h
  · exact (congrArg piece hframe).trans hown
  · exact hfault c

/-! ## The writers of each piece -/

theorem State.readV_writeFlagged_of_ne {x r : Reg} (hx : r ≠ x) (hvf : r ≠ VF) (s : State) (y : Reg)
    (f g : Byte → Byte → Byte) : (s.writeFlagged x y f g).readV r = s.readV r := by
  cases ho : s.params.vfOrder with
  | sequential => rw [State.readV_writeFlagged_sequential ho, if_neg hx, if_neg hvf]
  | snapshot => rw [State.readV_writeFlagged_snapshot ho, if_neg hvf, if_neg hx]

/-- A register no writer of V names keeps its value (R14, R15). -/
theorem readV_of_exec (h : exec i s = .next t) {r : Reg} (hr : ¬ MayWriteV i r) : t.readV r = s.readV r := by
  cases i with
  | ldImm x _ | addImm x _ | ldReg x _ | orReg x _ | andReg x _ | xorReg x _ | rnd x _ | ldVxDt x =>
    obtain rfl := Host.Outcome.next.inj h
    exact (State.readV_writeV ..).trans (if_neg hr)
  | addReg x y | subReg x y | shr x y | subnReg x y | shl x y =>
    obtain rfl := Host.Outcome.next.inj h
    obtain ⟨hx, hvf⟩ := not_or.1 hr
    exact s.readV_writeFlagged_of_ne hx hvf ..
  | ldVxK x =>
    obtain ⟨-, hx⟩ | ⟨-, ⟨b, hx⟩ | ⟨a, hx⟩⟩ := execLdVxK_cases x s <;> obtain rfl := Host.Outcome.next.inj (hx.symm.trans h)
    · rfl
    · exact (State.readV_writeV ..).trans (if_neg hr)
    · rfl
  | drw x y n =>
    obtain rfl := Host.Outcome.next.inj h
    exact (State.readV_writeV ..).trans (if_neg hr)
  | loadRegs x =>
    obtain rfl := Host.Outcome.next.inj h
    have hx : ¬ r.toNat ≤ x.toNat := hr
    exact (s.readV_loadBlock (Nat.succ_le_of_lt x.isLt) r).trans (if_neg (by omega))
  | _ => exact exec_keeps (piece := (·.readV r)) h rfl fun _ => rfl

theorem pc_of_exec (h : exec i s = .next t) :
    i = .ret ∨ (∃ a, i = .jp a) ∨ (∃ a, i = .call a) ∨ (∃ a, i = .jpV0 a) ∨ (∃ x kk, i = .seImm x kk) ∨
      (∃ x kk, i = .sneImm x kk) ∨ (∃ x y, i = .seReg x y) ∨ (∃ x y, i = .sneReg x y) ∨ (∃ x, i = .skp x) ∨
      (∃ x, i = .sknp x) ∨ ((∃ x, i = .ldVxK x) ∧ s.params.fx0a = .waitKey) ∨ t.pc = s.pc := by
  cases i with
  | ret | jp | call | jpV0 | seImm | sneImm | seReg | sneReg | skp | sknp => simp
  | ldVxK x =>
    obtain ⟨-, hx⟩ | ⟨hwait, -⟩ := execLdVxK_cases x s
    · obtain rfl := Host.Outcome.next.inj (hx.symm.trans h)
      simp
    · simp [hwait]
  | _ => simp [exec_keeps (piece := State.pc) h rfl fun _ => rfl]

/-- An instruction that completes leaves the fault status alone (R30). -/
theorem State.withWrites_faultStatus (s : State) (i : Instr) (t : State) :
    (s.withWrites i t).halted = s.halted ∧ (s.withWrites i t).faultCode = s.faultCode ∧
      (s.withWrites i t).faultPc = s.faultPc := by
  cases i <;> exact ⟨rfl, rfl, rfl⟩

/-- The fault status changes by one of R116's faults or not at all (R30, R116). -/
theorem faultStatus_of_exec (h : exec i s = .next t) :
    (t.halted = s.halted ∧ t.faultCode = s.faultCode ∧ t.faultPc = s.faultPc) ∨
      ((∃ a, i = .call a) ∨ i = .ret ∨ (∃ x, i = .skp x) ∨ (∃ x, i = .sknp x)) ∧
        ∃ c, c ≠ .none ∧ t = s.raiseFault c := by
  refine (exec_cases h).imp_left fun hframe => ?_
  have hsame := s.withWrites_faultStatus i t
  rwa [← hframe] at hsame

theorem seed_of_exec (h : exec i s = .next t) : (∃ x kk, i = .rnd x kk) ∨ t.seed = s.seed := by
  cases i with
  | rnd x kk => exact .inl ⟨x, kk, rfl⟩
  | _ => exact .inr (exec_keeps (piece := State.seed) h rfl fun _ => rfl)

theorem i_of_exec (h : exec i s = .next t) :
    (∃ a, i = .ldI a) ∨ (∃ x, i = .addI x) ∨ (∃ x, i = .ldF x) ∨ t.i = s.i := by
  cases i with
  | ldI a => exact .inl ⟨a, rfl⟩
  | addI x => exact .inr (.inl ⟨x, rfl⟩)
  | ldF x => exact .inr (.inr (.inl ⟨x, rfl⟩))
  | _ => exact .inr (.inr (.inr (exec_keeps (piece := State.i) h rfl fun _ => rfl)))

theorem stack_of_exec (h : exec i s = .next t) : (∃ a, i = .call a) ∨ t.stack = s.stack := by
  cases i with
  | call a => exact .inl ⟨a, rfl⟩
  | _ => exact .inr (exec_keeps (piece := State.stack) h rfl fun _ => rfl)

theorem sp_of_exec (h : exec i s = .next t) : (∃ a, i = .call a) ∨ i = .ret ∨ t.sp = s.sp := by
  cases i with
  | call a => exact .inl ⟨a, rfl⟩
  | ret => exact .inr (.inl rfl)
  | _ => exact .inr (.inr (exec_keeps (piece := State.sp) h rfl fun _ => rfl))

theorem display_of_exec (h : exec i s = .next t) :
    i = .cls ∨ (∃ x y n, i = .drw x y n) ∨ (t.fb = s.fb ∧ t.drawPending = s.drawPending) := by
  cases i with
  | cls => exact .inl rfl
  | drw x y n => exact .inr (.inl ⟨x, y, n, rfl⟩)
  | _ =>
    exact .inr (.inr ⟨exec_keeps (piece := State.fb) h rfl fun _ => rfl,
      exec_keeps (piece := State.drawPending) h rfl fun _ => rfl⟩)

theorem mem_of_exec (h : exec i s = .next t) : (∃ x, i = .ldB x) ∨ (∃ x, i = .storeRegs x) ∨ t.mem = s.mem := by
  cases i with
  | ldB x => exact .inl ⟨x, rfl⟩
  | storeRegs x => exact .inr (.inl ⟨x, rfl⟩)
  | _ => exact .inr (.inr (exec_keeps (piece := State.mem) h rfl fun _ => rfl))

theorem dt_of_exec (h : exec i s = .next t) : (∃ x, i = .ldDtVx x) ∨ t.dt = s.dt := by
  cases i with
  | ldDtVx x => exact .inl ⟨x, rfl⟩
  | _ => exact .inr (exec_keeps (piece := State.dt) h rfl fun _ => rfl)

theorem st_of_exec (h : exec i s = .next t) : (∃ x, i = .ldStVx x) ∨ t.st = s.st := by
  cases i with
  | ldStVx x => exact .inl ⟨x, rfl⟩
  | _ => exact .inr (exec_keeps (piece := State.st) h rfl fun _ => rfl)

theorem op_of_exec (h : exec i s = .next t) : t.op = s.op :=
  exec_keeps (piece := State.op) h (by cases i <;> rfl) fun _ => rfl

end

/-- Settles O17: each clause is the lemma about the writers of its piece. -/
theorem eachPieceOfStateHasItsWriters : Obligations.EachPieceOfStateHasItsWriters := by
  intro i s t h
  refine ⟨fun r hr => readV_of_exec h hr, pc_of_exec h, ?_, seed_of_exec h, i_of_exec h, stack_of_exec h, sp_of_exec h,
    display_of_exec h, mem_of_exec h, dt_of_exec h, st_of_exec h, op_of_exec h⟩
  obtain hsame | ⟨hcall | hret | hskp | hsknp, -⟩ := faultStatus_of_exec h
  · exact .inr (.inr (.inr (.inr hsame)))
  · exact .inl hcall
  · exact .inr (.inl hret)
  · exact .inr (.inr (.inl hskp))
  · exact .inr (.inr (.inr (.inl hsknp)))

end Sys2Proof.Machine

/-! SUPPORT. The invariant (R20, R30; log entry 9): what an instruction, a step, a batch and a host operation do to
each of its three parts. -/

namespace Sys2Proof.Machine

/-! ## The three parts, and what they depend on -/

section
variable {s t : State}

theorem State.MemOk.congr (hs : s.MemOk) (hparams : t.params = s.params) (hmem : t.mem = s.mem) : t.MemOk := by
  rw [State.MemOk, hparams, hmem]
  exact hs

theorem State.SpLegal.congr (hs : s.SpLegal) (hsp : t.sp = s.sp) : t.SpLegal := by
  rw [State.SpLegal, hsp]
  exact hs

theorem State.FaultStatusOk.congr (hs : s.FaultStatusOk)
    (h : t.halted = s.halted ∧ t.faultCode = s.faultCode ∧ t.faultPc = s.faultPc) : t.FaultStatusOk := by
  obtain ⟨hhalted, hcode, hpc⟩ := h
  constructor
  · rw [hhalted, hcode]; exact hs.halted_iff
  · rw [hhalted, hpc]; exact hs.running_pc

/-- What the invariant speaks of. -/
def State.guarded (s : State) : Params × Memory × Addr × Bool × FaultCode × Addr :=
  (s.params, s.mem, s.sp, s.halted, s.faultCode, s.faultPc)

theorem State.Inv.congr (hs : s.Inv) (h : t.guarded = s.guarded) : t.Inv := by
  simp only [State.guarded, Prod.mk.injEq] at h
  obtain ⟨hparams, hmem, hsp, hfault⟩ := h
  exact ⟨hs.mem.congr hparams hmem, hs.sp.congr hsp, hs.fault.congr hfault⟩

/-- A fault's code stands with `halted` (R117). -/
theorem State.faultStatusOk_raiseFault (s : State) {c : FaultCode} (hc : c ≠ .none) : (s.raiseFault c).FaultStatusOk where
  halted_iff := iff_of_true rfl hc
  running_pc := by simp

/-- Leaving the fault state leaves a consistent status, whatever it was before (R120). -/
theorem State.faultStatusOk_clearFault (s : State) : s.clearFault.FaultStatusOk where
  halted_iff := by simp
  running_pc _ := rfl

theorem State.faultStatusOk_clearCore (s : State) : s.clearCore.FaultStatusOk := State.faultStatusOk_clearFault _

/-! ## Instructions and steps -/

/-- Only LD B and LD [I] write RAM, through `writeByte`, which keeps the canonical form (R40). -/
theorem memOk_of_exec {i : Instr} (h : exec i s = .next t) (hs : s.MemOk) : t.MemOk := by
  obtain ⟨x, rfl⟩ | ⟨x, rfl⟩ | hmem := mem_of_exec h
  · obtain rfl := Host.Outcome.next.inj h
    exact State.wf_writeByte (State.wf_writeByte (State.wf_writeByte hs ..) ..) ..
  · obtain rfl := Host.Outcome.next.inj h
    exact State.wf_storeBlock hs _
  · obtain ⟨-, -, -, -, hparams⟩ := State.hostState_eq_iff.1 (hostState_of_exec h)
    exact hs.congr hparams hmem

/-- Only CALL and RET write SP, and each checks it first (R20, R75, R77). -/
theorem spLegal_of_exec {i : Instr} (h : exec i s = .next t) (hs : s.SpLegal) : t.SpLegal := by
  obtain ⟨nnn, rfl⟩ | rfl | hsp := sp_of_exec h
  · obtain ⟨hroom, hx⟩ | ⟨c, -, hx⟩ := execCall_cases nnn s <;> obtain rfl := Host.Outcome.next.inj (hx.symm.trans h)
    · have hsp : (s.sp + 1#12).toNat = s.sp.toNat + 1 := by bv_omega
      exact hsp.trans_le hroom
    · exact hs
  · obtain ⟨hpos, hle, hx⟩ | ⟨c, -, hx⟩ := execRet_cases s <;> obtain rfl := Host.Outcome.next.inj (hx.symm.trans h)
    · have hsp : (s.sp - 1#12).toNat = s.sp.toNat - 1 := by bv_omega
      exact hsp.trans_le (by omega)
    · exact hs
  · exact hs.congr hsp

theorem faultStatusOk_of_exec {i : Instr} (h : exec i s = .next t) (hs : s.FaultStatusOk) : t.FaultStatusOk := by
  obtain hsame | ⟨-, c, hc, rfl⟩ := faultStatus_of_exec h
  · exact hs.congr hsame
  · exact s.faultStatusOk_raiseFault hc

theorem inv_of_exec {i : Instr} (h : exec i s = .next t) (hs : s.Inv) : t.Inv :=
  ⟨memOk_of_exec h hs.mem, spLegal_of_exec h hs.sp, faultStatusOk_of_exec h hs.fault⟩

theorem inv_of_step (h : step s = .next t) (hs : s.Inv) : t.Inv := by
  have hfetched : s.fetched.Inv := hs.congr rfl
  obtain ⟨-, rfl⟩ | ⟨-, i, -, hexec⟩ | ⟨-, e, -, rfl⟩ := step_cases h
  · exact hs
  · exact inv_of_exec hexec hfetched
  · exact hfetched

/-! ## The tick -/

/-- What every step keeps, a batch keeps: by induction on its budget (R65). -/
theorem batch_induction {P : State → Prop} (hstep : ∀ {s t : State}, step s = .next t → P s → P t) {budget : Nat}
    (h : batch budget s = .next t) (hs : P s) : P t := by
  induction budget generalizing s with
  | zero =>
    obtain rfl := Host.Outcome.next.inj h
    exact hs
  | succ budget ih =>
    simp only [batch] at h
    split at h
    · obtain rfl := Host.Outcome.next.inj h
      exact hs
    · split at h
      next u hu =>
        have hPu : P u := hstep hu hs
        split at h
        · obtain rfl := Host.Outcome.next.inj h
          exact hPu
        · exact ih h hPu
      next => nomatch h
      next => nomatch h

/-- A tick is its batch, then the timers and the notifications (R65). -/
theorem tick_cases {notes : List Notification} (h : tick s = .next (t, notes)) :
    ∃ u, batch s.clockRate.toNat s.clearDraw = .next u ∧ t = u.tickTimers.latchSound ∧
      notes = u.tickTimers.notifications := by
  unfold tick at h
  split at h
  next u hu =>
    obtain ⟨rfl, rfl⟩ := Prod.mk.inj (Host.Outcome.next.inj h)
    exact ⟨u, hu, rfl, rfl⟩
  next => nomatch h
  next => nomatch h

theorem inv_of_tick {notes : List Notification} (h : tick s = .next (t, notes)) (hs : s.Inv) : t.Inv := by
  obtain ⟨u, hbatch, rfl, -⟩ := tick_cases h
  have hu : u.Inv := batch_induction inv_of_step hbatch (hs.congr rfl)
  exact hu.congr rfl

/-! ## The host's operations -/

theorem perform_tick_cases {r : HostResult} (h : perform .tick s = .next r) :
    tick s = .next (r.state, r.notes) ∧ r.reply = .unit := by
  simp only [perform] at h
  split at h
  next htick =>
    obtain rfl := Host.Outcome.next.inj h
    exact ⟨htick, rfl⟩
  next => nomatch h
  next => nomatch h

/-- LoadProgram changes nothing, or loads the program of a legal length (R142). -/
theorem loadProgram_cases {bytes : List Byte} {length : Nat} {r : HostResult}
    (h : loadProgram s bytes length = .next r) :
    r.state = s ∨ length ≤ 3584 ∧ r.state = s.withProgram (bytes.take length) := by
  unfold loadProgram at h
  split at h
  · obtain rfl := Host.Outcome.next.inj h
    exact .inl rfl
  · split at h
    · nomatch h
    · obtain rfl := Host.Outcome.next.inj h
      exact .inr ⟨by omega, rfl⟩

theorem getPixel_state {x y : Nat} {r : HostResult} (h : getPixel s x y = .next r) : r.state = s := by
  unfold getPixel at h
  split at h
  · obtain rfl := Host.Outcome.next.inj h
    rfl
  · nomatch h

/-- The state after Initialize, under any parameters (R33, R141). -/
theorem State.inv_initial (p : Params) : (State.initial p).Inv where
  mem := rfl
  sp := Nat.zero_le 16
  fault := { halted_iff := by simp [State.initial], running_pc := fun _ => rfl }

/-- LoadProgram's copy starts at 0x200 and ends inside the RAM (R142). -/
theorem State.inv_withProgram (s : State) {prog : List Byte} (h : prog.length ≤ 3584) : (s.withProgram prog).Inv where
  mem := Memory.wfFrom_mono (Nat.zero_le 0x200) (Memory.wfFrom_image (by omega))
  sp := Nat.zero_le 16
  fault := s.faultStatusOk_clearCore.congr ⟨rfl, rfl, rfl⟩

/-- The partial reset keeps the font region's entries only (R143). -/
theorem State.Inv.partialReset (hs : s.Inv) : s.partialReset.Inv where
  mem := Memory.wfFrom_below hs.mem
  sp := Nat.zero_le 16
  fault := s.faultStatusOk_clearCore.congr ⟨rfl, rfl, rfl⟩

theorem State.Inv.setKey (hs : s.Inv) (k : Nat) (pressed : Bool) : (s.setKey k pressed).Inv := by
  unfold State.setKey
  split
  · exact hs.congr rfl
  · exact hs

/-- LoadState keeps the RAM below 0x200 and writes the record's 3584 bytes above it (R135). -/
theorem State.MemOk.loadState (hs : s.MemOk) (r : SaveRecord) : (s.loadState r).MemOk :=
  Memory.wfFrom_below_append (Nat.zero_le 0x200) hs (Memory.wfFrom_image (by simp))

theorem State.faultStatusOk_loadState (s : State) (r : SaveRecord) : (s.loadState r).FaultStatusOk :=
  State.faultStatusOk_clearFault _

/-- Every operation but LoadState keeps the whole invariant (R20). -/
theorem inv_of_perform {o : HostOp} {r : HostResult} (h : perform o s = .next r) (hs : s.Inv)
    (ho : ∀ rec, o ≠ .loadState rec) : r.state.Inv := by
  cases o with
  | initCore =>
    obtain rfl := Host.Outcome.next.inj h
    exact State.inv_initial _
  | loadProgram bytes length =>
    obtain hstate | ⟨hlen, hstate⟩ := loadProgram_cases h <;> rw [hstate]
    · exact hs
    · exact s.inv_withProgram ((List.length_take_le ..).trans hlen)
  | partialReset =>
    obtain rfl := Host.Outcome.next.inj h
    exact hs.partialReset
  | setKey k pressed =>
    obtain rfl := Host.Outcome.next.inj h
    exact hs.setKey k pressed
  | tick => exact inv_of_tick (perform_tick_cases h).1 hs
  | getPixel x y =>
    rw [getPixel_state h]
    exact hs
  | setClockRate | setVsync =>
    obtain rfl := Host.Outcome.next.inj h
    exact hs.congr rfl
  | shouldPresentFrame | isSoundActive | getClockRate | saveState | readState =>
    obtain rfl := Host.Outcome.next.inj h
    exact hs
  | loadState rec => exact absurd rfl (ho rec)

end

/-- Settles O14: step by step, since each instruction keeps each of the three parts. -/
theorem stepKeepsInv : Obligations.StepKeepsInv :=
  fun _ _ hs h => inv_of_step h hs

/-- Settles O15: LoadState keeps two parts of the invariant, every other operation all three. -/
theorem hostOperationsKeepInv : Obligations.HostOperationsKeepInv := by
  intro o s r hs h
  by_cases ho : ∀ rec, o ≠ .loadState rec
  · have hinv := inv_of_perform h hs ho
    exact ⟨hinv.mem, hinv.fault, fun _ => hinv.sp⟩
  · obtain ⟨rec, hrec⟩ := not_forall_not.1 ho
    subst hrec
    obtain rfl := Host.Outcome.next.inj h
    exact ⟨hs.mem.loadState rec, s.faultStatusOk_loadState rec, fun hne => absurd rfl (hne rec)⟩

/-- Settles O13: reset is Initialize under the default parameters. -/
theorem resetMeetsInv : Obligations.ResetMeetsInv := State.inv_initial defaultParams

/-! ## The decode scratch (R27) -/

theorem step_of_running {s : State} (h : s.halted = false) : step s = cycle s := by
  simp only [step, coreStep, h, Bool.false_eq_true, if_false]

/-- A cycle's fetch overwrites the scratch before anything could read it (R60). -/
theorem cycle_withOp (s : State) (w : Opcode) : cycle { s with op := w } = cycle s := rfl

/-- Settles O20: a core that is not halted runs a cycle, and a cycle does not depend on the scratch. -/
theorem decodeScratchIsUnobservable : Obligations.DecodeScratchIsUnobservable := by
  intro s w h
  calc step { s with op := w } = cycle { s with op := w } := step_of_running (s := { s with op := w }) h
    _ = cycle s := cycle_withOp s w
    _ = step s := (step_of_running h).symm

end Sys2Proof.Machine

/-! SUPPORT. The five elements no instruction reads: clock_rate, vsync, the sound latch, draw_pending and ST (R21, R24,
R29, R31). Every meaning commutes with putting other values there. -/

namespace Sys2Proof.Machine

/-- Values for the five elements. -/
structure HostSide where
  clockRate : Word32
  vsync : Bool
  soundLatch : Bool
  drawPending : Bool
  st : Byte

/-- The state with the five elements at the given values. -/
def State.withHostSide (s : State) (c : HostSide) : State :=
  { s with
    clockRate := c.clockRate, vsync := c.vsync, soundLatch := c.soundLatch, drawPending := c.drawPending, st := c.st }

/-- The five elements after the instruction on `s`: CLS and DRW write draw_pending (R24), Fx18 writes ST (R21). -/
def HostSide.after (c : HostSide) (s : State) : Instr → HostSide
  | .cls | .drw _ _ _ => { c with drawPending := true }
  | .ldStVx x => { c with st := s.readV x }
  | _ => c

/-! ## The shared operations -/

section
variable (s : State) (c : HostSide)

theorem State.withHostSide_skipIf (b : Bool) : (s.withHostSide c).skipIf b = (s.skipIf b).withHostSide c := by
  cases b <;> rfl

theorem State.withHostSide_writeFlagged (x y : Reg) (f r : Byte → Byte → Byte) :
    (s.withHostSide c).writeFlagged x y f r = (s.writeFlagged x y f r).withHostSide c := by
  cases h : s.params.vfOrder with
  | sequential => simp only [State.writeFlagged, State.withHostSide, h]; rfl
  | snapshot => simp only [State.writeFlagged, State.withHostSide, h]; rfl

theorem State.withHostSide_storeBlock (n : Nat) :
    (s.withHostSide c).storeBlock n = (s.storeBlock n).withHostSide c := by
  induction n with
  | zero => rfl
  | succ n ih => rw [State.storeBlock_succ, ih, State.storeBlock_succ]; rfl

theorem State.withHostSide_loadBlock (n : Nat) : (s.withHostSide c).loadBlock n = (s.loadBlock n).withHostSide c := by
  induction n with
  | zero => rfl
  | succ n ih => rw [State.loadBlock_succ, ih, State.loadBlock_succ]; rfl

/-! ## The meanings with several outcomes: each condition reads the same under the other values -/

theorem execRet_withHostSide :
    ∃ t, execRet s = .next t ∧ execRet (s.withHostSide c) = .next (t.withHostSide c) := by
  rcases Nat.eq_zero_or_pos s.sp.toNat with h0 | h0
  · exact ⟨_, execRet_empty h0, execRet_empty (s := s.withHostSide c) h0⟩
  · rcases Nat.lt_or_ge 16 s.sp.toNat with h16 | h16
    · exact ⟨_, execRet_overfull h16, execRet_overfull (s := s.withHostSide c) h16⟩
    · exact ⟨_, execRet_pop h0 h16, execRet_pop (s := s.withHostSide c) h0 h16⟩

theorem execCall_withHostSide (nnn : Addr) :
    ∃ t, execCall nnn s = .next t ∧ execCall nnn (s.withHostSide c) = .next (t.withHostSide c) := by
  rcases Nat.lt_or_ge s.sp.toNat 16 with h | h
  · exact ⟨_, execCall_push h nnn, execCall_push (s := s.withHostSide c) h nnn⟩
  · exact ⟨_, execCall_full h nnn, execCall_full (s := s.withHostSide c) h nnn⟩

theorem execSkp_withHostSide (x : Reg) :
    ∃ t, execSkp x s = .next t ∧ execSkp x (s.withHostSide c) = .next (t.withHostSide c) := by
  cases h : keyIndex s.params.keyIndex (s.readV x) with
  | none => exact ⟨_, execSkp_noKey h, execSkp_noKey (s := s.withHostSide c) h⟩
  | some k =>
    refine ⟨_, execSkp_key h, ?_⟩
    rw [← State.withHostSide_skipIf]
    exact execSkp_key (s := s.withHostSide c) h

theorem execSknp_withHostSide (x : Reg) :
    ∃ t, execSknp x s = .next t ∧ execSknp x (s.withHostSide c) = .next (t.withHostSide c) := by
  cases h : keyIndex s.params.keyIndex (s.readV x) with
  | none => exact ⟨_, execSknp_noKey h, execSknp_noKey (s := s.withHostSide c) h⟩
  | some k =>
    refine ⟨_, execSknp_key h, ?_⟩
    rw [← State.withHostSide_skipIf]
    exact execSknp_key (s := s.withHostSide c) h

theorem execLdVxK_withHostSide (x : Reg) :
    ∃ t, execLdVxK x s = .next t ∧ execLdVxK x (s.withHostSide c) = .next (t.withHostSide c) := by
  cases h : s.params.fx0a with
  | nop => exact ⟨_, execLdVxK_nop h x, execLdVxK_nop (s := s.withHostSide c) h x⟩
  | waitKey =>
    cases hk : s.lowestKey with
    | some k => exact ⟨_, execLdVxK_key h hk x, execLdVxK_key (s := s.withHostSide c) h hk x⟩
    | none => exact ⟨_, execLdVxK_noKey h hk x, execLdVxK_noKey (s := s.withHostSide c) h hk x⟩

/-! ## Every instruction -/

theorem exec_withHostSide (i : Instr) :
    ∃ t, exec i s = .next t ∧ exec i (s.withHostSide c) = .next (t.withHostSide (c.after s i)) :=
  match i with
  | .ret => execRet_withHostSide s c
  | .call nnn => execCall_withHostSide s c nnn
  | .skp x => execSkp_withHostSide s c x
  | .sknp x => execSknp_withHostSide s c x
  | .ldVxK x => execLdVxK_withHostSide s c x
  | .seImm _ _ | .sneImm _ _ | .seReg _ _ | .sneReg _ _ =>
    ⟨_, rfl, congrArg Host.Outcome.next (s.withHostSide_skipIf c _)⟩
  | .addReg _ _ | .subReg _ _ | .shr _ _ | .subnReg _ _ | .shl _ _ =>
    ⟨_, rfl, congrArg Host.Outcome.next (s.withHostSide_writeFlagged c ..)⟩
  | .storeRegs _ => ⟨_, rfl, congrArg Host.Outcome.next (s.withHostSide_storeBlock c _)⟩
  | .loadRegs _ => ⟨_, rfl, congrArg Host.Outcome.next (s.withHostSide_loadBlock c _)⟩
  | .cls | .sys _ | .jp _ | .ldImm _ _ | .addImm _ _ | .ldReg _ _ | .orReg _ _ | .andReg _ _ | .xorReg _ _ | .ldI _
  | .jpV0 _ | .rnd _ _ | .drw _ _ _ | .ldVxDt _ | .ldDtVx _ | .ldStVx _ | .addI _ | .ldF _ | .ldB _ => ⟨_, rfl, rfl⟩

end

section
variable {i : Instr} {s t : State}

/-- draw_pending is written to 1 whatever it was, or kept whatever it was (R24). -/
theorem drawPending_after (h : exec i s = .next t) (c : HostSide) :
    (c.after s i).drawPending = c.drawPending ∧ t.drawPending = s.drawPending ∨
      (c.after s i).drawPending = true ∧ t.drawPending = true := by
  cases i with
  | cls | drw =>
    obtain rfl := Host.Outcome.next.inj h
    exact .inr ⟨rfl, rfl⟩
  | _ => exact .inl ⟨rfl, exec_keeps (piece := State.drawPending) h rfl fun _ => rfl⟩

/-- ST is written to the same value whatever it was, or kept whatever it was (R21). -/
theorem st_after (h : exec i s = .next t) (c : HostSide) :
    (c.after s i).st = c.st ∧ t.st = s.st ∨ (c.after s i).st = t.st := by
  cases i with
  | ldStVx x =>
    obtain rfl := Host.Outcome.next.inj h
    exact .inr rfl
  | _ => exact .inl ⟨rfl, exec_keeps (piece := State.st) h rfl fun _ => rfl⟩

/-- The configuration and the latch are kept whatever they were (R29, R31). -/
theorem config_after (c : HostSide) (s : State) (i : Instr) :
    (c.after s i).clockRate = c.clockRate ∧ (c.after s i).vsync = c.vsync ∧
      (c.after s i).soundLatch = c.soundLatch := by
  cases i <;> exact ⟨rfl, rfl, rfl⟩

end

/-- Settles O21: the other run's answer is the first's with the five elements as the instruction leaves them. -/
theorem instructionsDoNotReadHostState : Obligations.InstructionsDoNotReadHostState := by
  intro i s t rate vs latch draw snd h
  obtain ⟨u, hu, hother⟩ := exec_withHostSide s ⟨rate, vs, latch, draw, snd⟩ i
  obtain rfl : u = t := Host.Outcome.next.inj (hu.symm.trans h)
  obtain ⟨hrate, hvs, hlatch⟩ := config_after ⟨rate, vs, latch, draw, snd⟩ s i
  refine ⟨_, hother, ?_, drawPending_after h _, st_after h _⟩
  rw [State.withHostSide, hrate, hvs, hlatch]

end Sys2Proof.Machine

/-! SUPPORT. The decoder reads back what the encoder writes (R51 to R55), a word stored where the core fetches is the
one the next step runs (R38, R60), and effective addresses wrap (R36). -/

namespace Sys2Proof

/-! ## The families with a dispatch of their own (R52) -/

section
variable (p : Params) {w : Opcode}

theorem decodeWord_family0 (h : opFamily w = 0x0#4) : decodeWord p w = .ok (decodeFamily0 p.family0 w) := by
  rw [decodeWord, h]; rfl

theorem decodeWord_family8 (h : opFamily w = 0x8#4) : decodeWord p w = decodeFamily8 w := by
  rw [decodeWord, h]; rfl

theorem decodeWord_familyE (h : opFamily w = 0xE#4) : decodeWord p w = decodeFamilyE w := by
  rw [decodeWord, h]; rfl

theorem decodeWord_familyF (h : opFamily w = 0xF#4) : decodeWord p w = decodeFamilyF w := by
  rw [decodeWord, h]; rfl

end

/-! ## Family 0: R53's choice of a word is the choice of its address field that `wellFormed` excludes for SYS -/

theorem encodeNNN_beq (f : Nibble) (a b : Addr) : (encodeNNN f a == encodeNNN f b) = (a == b) := by
  have hinj : encodeNNN f a = encodeNNN f b ↔ a = b :=
    ⟨fun h => by simpa using congrArg opNNN h, congrArg (encodeNNN f)⟩
  rw [Bool.eq_iff_iff, beq_iff_eq, beq_iff_eq, hinj]

theorem family0Matches_cls (m : Family0Match) (nnn : Addr) :
    family0Matches m 0x00E0#16 0xE0#8 (encodeNNN 0x0#4 nnn) = selectsCls m nnn := by
  cases m with
  | fullWord => exact encodeNNN_beq 0x0#4 nnn 0x0E0#12
  | lowByte => rw [family0Matches, opKK_encodeNNN, selectsCls]

theorem family0Matches_ret (m : Family0Match) (nnn : Addr) :
    family0Matches m 0x00EE#16 0xEE#8 (encodeNNN 0x0#4 nnn) = selectsRet m nnn := by
  cases m with
  | fullWord => exact encodeNNN_beq 0x0#4 nnn 0x0EE#12
  | lowByte => rw [family0Matches, opKK_encodeNNN, selectsRet]

theorem decodeFamily0_encodeNNN (m : Family0Match) (nnn : Addr) :
    decodeFamily0 m (encodeNNN 0x0#4 nnn) =
      if selectsCls m nnn then .cls else if selectsRet m nnn then .ret else .sys nnn := by
  rw [decodeFamily0, family0Matches_cls, family0Matches_ret, opNNN_encodeNNN]

/-! ## Every instruction -/

/-- The cases stand together by the format of the word and by the dispatch that reads it. -/
theorem decodeWord_encode {p : Params} {i : Instr} (h : wellFormed p i = true) : decodeWord p (encode i) = .ok i := by
  cases i with
  | cls | ret =>
    rw [decodeWord_family0 p rfl]
    cases p.family0 <;> rfl
  | sys nnn =>
    obtain ⟨hcls, hret⟩ : selectsCls p.family0 nnn = false ∧ selectsRet p.family0 nnn = false := by
      simpa [wellFormed] using h
    rw [encode, decodeWord_family0 p (opFamily_encodeNNN ..), decodeFamily0_encodeNNN, hcls, hret]
    rfl
  | jp | call | ldI | jpV0 => simp only [decodeWord, encode, opFamily_encodeNNN, opNNN_encodeNNN]
  | seImm | sneImm | ldImm | addImm | rnd =>
    simp only [decodeWord, encode, opFamily_encodeXKK, opX_encodeXKK, opKK_encodeXKK]
  | skp | sknp =>
    rw [encode, decodeWord_familyE p (opFamily_encodeXKK ..)]
    simp only [decodeFamilyE, opX_encodeXKK, opKK_encodeXKK]
  | ldVxDt | ldVxK | ldDtVx | ldStVx | addI | ldF | ldB | storeRegs | loadRegs =>
    rw [encode, decodeWord_familyF p (opFamily_encodeXKK ..)]
    simp only [decodeFamilyF, opX_encodeXKK, opKK_encodeXKK]
  | drw => simp only [decodeWord, encode, opFamily_encodeXYN, opX_encodeXYN, opY_encodeXYN, opN_encodeXYN]
  | ldReg | orReg | andReg | xorReg | addReg | subReg | shr | subnReg | shl =>
    rw [encode, decodeWord_family8 p (opFamily_encodeXYN ..)]
    simp only [decodeFamily8, opX_encodeXYN, opY_encodeXYN, opN_encodeXYN]
  | seReg | sneReg =>
    simp only [decodeWord, encode, opFamily_encodeXYN, opX_encodeXYN, opY_encodeXYN, opN_encodeXYN]
    cases p.skipRegN <;> rfl

end Sys2Proof

namespace Sys2Proof.Machine

/-! ## The word that was stored is the word that runs -/

@[simp] theorem State.placeWord_params (s : State) (w : Opcode) : (s.placeWord w).params = s.params := rfl

@[simp] theorem State.placeWord_halted (s : State) (w : Opcode) : (s.placeWord w).halted = false := rfl

theorem State.withFetchWord_toNat (s : State) (w : Opcode) : s.withFetchWord 16 w.toNat = s.placeWord w := by
  rw [State.withFetchWord, tableWord_toNat]

/-- A core that runs executes the instruction its fetched word decodes to (R60). -/
theorem step_of_decoded {s : State} {i : Instr} (hrun : s.halted = false)
    (h : decodeWord s.params s.fetchWord = .ok i) : step s = exec i s.fetched := by
  rw [step_of_running hrun, cycle, executeWord, State.fetched_params, h]

/-- Settles O12: the fetch reads the stored word back, and the decoder reads the instruction back from it. -/
theorem storedWordRunsNext : Obligations.StoredWordRunsNext := by
  intro s i hs hi
  rw [State.withFetchWord_toNat]
  have hfetch : (s.placeWord (encode i)).fetchWord = encode i := State.fetchWord_placeWord hs _
  have hdecode : decodeWord (s.placeWord (encode i)).params (s.placeWord (encode i)).fetchWord = .ok i := by
    rw [hfetch, State.placeWord_params, decodeWord_encode hi]
  exact step_of_decoded (s.placeWord_halted _) hdecode

/-! ## Effective addresses (R36) -/

theorem State.toNat_memAddr (s : State) (k : Nat) : (s.memAddr k).toNat = (s.i.toNat + k) % 4096 := by
  rw [State.memAddr, BitVec.toNat_add, BitVec.toNat_ofNat, Nat.add_mod_mod]

/-- Settles O33: a 12-bit sum wraps at 4096. -/
theorem effectiveAddressesWrap : Obligations.EffectiveAddressesWrap := State.toNat_memAddr

end Sys2Proof.Machine

/-! SUPPORT. The encoding (R51 to R57): what a decoded word can be, which words the decoder rejects, and what the core
does with a no-op encoding. -/

namespace Sys2Proof

/-! ## The instruction of a word (R51) -/

/-- Settles O5: `decodeWord_encode`, which splits along the formats of the words. -/
theorem decodeInvertsEncode : Obligations.DecodeInvertsEncode := fun _ _ => decodeWord_encode

/-- A word that is the word of a well-formed instruction decodes to it. -/
theorem decodeWord_of_encode_eq {p : Params} {w : Opcode} {i : Instr} (hw : encode i = w) (hi : wellFormed p i = true) :
    decodeWord p w = .ok i :=
  hw ▸ decodeWord_encode hi

/-- Settles O6: each pattern is by definition the word of its row's instruction, and none of these is a SYS. -/
theorem patternsDecode : Obligations.PatternsDecode := by
  intro p x y n kk nnn
  and_intros <;> exact decodeWord_of_encode_eq rfl rfl

/-- Settles O11: the decoder runs on the written words. -/
theorem sampleWordsDecode : Obligations.SampleWordsDecode := by
  unfold Obligations.SampleWordsDecode
  decide

/-! ## Family 0 (R53) -/

theorem selectsCls_fullWord {nnn : Addr} : selectsCls .fullWord nnn = true ↔ nnn.toNat = 0x0E0 := by
  simp [selectsCls, BitVec.toNat_eq]

theorem selectsRet_fullWord {nnn : Addr} : selectsRet .fullWord nnn = true ↔ nnn.toNat = 0x0EE := by
  simp [selectsRet, BitVec.toNat_eq]

theorem selectsCls_lowByte {nnn : Addr} : selectsCls .lowByte nnn = true ↔ nnn.toNat % 256 = 0xE0 := by
  simp [selectsCls, BitVec.toNat_eq]

theorem selectsRet_lowByte {nnn : Addr} : selectsRet .lowByte nnn = true ↔ nnn.toNat % 256 = 0xEE := by
  simp [selectsRet, BitVec.toNat_eq]

theorem decodeWord_encodeNNN_zero (p : Params) (nnn : Addr) :
    decodeWord p (encodeNNN 0x0#4 nnn) =
      .ok (if selectsCls p.family0 nnn then .cls else if selectsRet p.family0 nnn then .ret else .sys nnn) := by
  rw [decodeWord_family0 p (opFamily_encodeNNN ..), decodeFamily0_encodeNNN]

/-- Under `fullWord` the family-0 words other than 00E0 and 00EE are SYS (R53). -/
theorem decodeWord_sys {p : Params} {w : Opcode} (h0 : p.family0 = .fullWord) (hf : opFamily w = 0x0#4)
    (hcls : w ≠ 0x00E0#16) (hret : w ≠ 0x00EE#16) : decodeWord p w = .ok (.sys (opNNN w)) := by
  rw [decodeWord_family0 p hf, h0]
  simp [decodeFamily0, family0Matches, hcls, hret]

/-- Settles O7: the choice by the address field, read as a number. -/
theorem familyZeroSelection : Obligations.FamilyZeroSelection := by
  intro p nnn
  refine ⟨fun h => ?_, fun h => ?_⟩
  · refine (decodeWord_encodeNNN_zero p nnn).trans ?_
    simp only [h, selectsCls_fullWord, selectsRet_fullWord]
  · refine (decodeWord_encodeNNN_zero p nnn).trans ?_
    simp only [h, selectsCls_lowByte, selectsRet_lowByte]

/-! ## What a decoded word can be -/

section
variable {p : Params} {w : Opcode} {i : Instr} {f : Nibble}

theorem encodeNNN_eq (hf : opFamily w = f) : encodeNNN f (opNNN w) = w := hf ▸ encodeNNN_fields w

theorem encodeXKK_eq {kk : Byte} (hf : opFamily w = f) (hkk : opKK w = kk) : encodeXKK f (opX w) kk = w :=
  hf ▸ hkk ▸ encodeXKK_fields w

theorem encodeXYN_eq {n : Nibble} (hf : opFamily w = f) (hn : opN w = n) : encodeXYN f (opX w) (opY w) n = w :=
  hf ▸ hn ▸ encodeXYN_fields w

theorem encode_of_decodeFamily8 (hf : opFamily w = 0x8#4) (h : decodeFamily8 w = .ok i) : encode i = w := by
  unfold decodeFamily8 at h
  split at h <;> cases h <;> exact encodeXYN_eq hf ‹_›

theorem encode_of_decodeFamilyE (hf : opFamily w = 0xE#4) (h : decodeFamilyE w = .ok i) : encode i = w := by
  unfold decodeFamilyE at h
  split at h <;> cases h <;> exact encodeXKK_eq hf ‹_›

theorem encode_of_decodeFamilyF (hf : opFamily w = 0xF#4) (h : decodeFamilyF w = .ok i) : encode i = w := by
  unfold decodeFamilyF at h
  split at h <;> cases h <;> exact encodeXKK_eq hf ‹_›

/-- A decoded word is of family 0, or the word of its instruction, or a register skip whose `n` is ignored (R54). -/
theorem decodeWord_cases (h : decodeWord p w = .ok i) :
    (opFamily w = 0x0#4 ∧ i = decodeFamily0 p.family0 w) ∨ encode i = w ∨
      (p.skipRegN = .ignoreN ∧ ∃ x y, i = .seReg x y ∨ i = .sneReg x y) := by
  unfold decodeWord at h
  split at h
  case h_1 hf =>
    cases h
    exact .inl ⟨hf, rfl⟩
  case h_2 hf | h_3 hf | h_11 hf | h_12 hf =>
    cases h
    exact .inr (.inl (encodeNNN_eq hf))
  case h_4 hf | h_5 hf | h_7 hf | h_8 hf | h_13 hf =>
    cases h
    exact .inr (.inl (encodeXKK_eq hf rfl))
  case h_6 hf | h_10 hf =>
    split at h <;> cases h
    next hn =>
      cases hp : p.skipRegN with
      | strict =>
        rw [hp, skipRegNMatches, beq_iff_eq] at hn
        exact .inr (.inl (encodeXYN_eq hf hn))
      | ignoreN => exact .inr (.inr ⟨rfl, opX w, opY w, by simp⟩)
  case h_14 hf =>
    cases h
    exact .inr (.inl (encodeXYN_eq hf rfl))
  case h_9 hf => exact .inr (.inl (encode_of_decodeFamily8 hf h))
  case h_15 hf => exact .inr (.inl (encode_of_decodeFamilyE hf h))
  case h_16 =>
    have hf : opFamily w = 0xF#4 := by apply nibble_eq_F <;> assumption
    exact .inr (.inl (encode_of_decodeFamilyF hf h))

/-- Under `fullWord` family 0 leaves each of its words one meaning (R53). -/
theorem encode_decodeFamily0_fullWord (hf : opFamily w = 0x0#4) : encode (decodeFamily0 .fullWord w) = w := by
  unfold decodeFamily0 family0Matches
  split_ifs with hcls hret
  · exact (beq_iff_eq.mp hcls).symm
  · exact (beq_iff_eq.mp hret).symm
  · exact encodeNNN_eq hf

/-- Family 0 answers a SYS only where it selects neither CLS nor RET (R53, R74). -/
theorem wellFormed_decodeFamily0 (p : Params) (hf : opFamily w = 0x0#4) :
    wellFormed p (decodeFamily0 p.family0 w) = true := by
  rw [← encodeNNN_eq hf, decodeFamily0_encodeNNN]
  split_ifs with hcls hret
  · rfl
  · rfl
  · simp [wellFormed, hcls, hret]

/-- Of the words that are not of family 0 none is a SYS, the one instruction not always well formed. -/
theorem wellFormed_of_decodeWord (h : decodeWord p w = .ok i) : wellFormed p i = true := by
  obtain ⟨hf, rfl⟩ | henc | ⟨-, x, y, rfl | rfl⟩ := decodeWord_cases h
  · exact wellFormed_decodeFamily0 p hf
  · cases i with
    | sys nnn =>
      have hf : opFamily w = 0x0#4 := henc ▸ opFamily_encodeNNN ..
      rw [decodeWord_family0 p hf] at h
      exact Except.ok.inj h ▸ wellFormed_decodeFamily0 p hf
    | _ => rfl
  · rfl
  · rfl

end

/-- Settles O8: `fullWord` and `strict` leave every disjunct of `decodeWord_cases` one word. -/
theorem encodeInvertsDecode : Obligations.EncodeInvertsDecode := by
  intro p w i h0 hn h
  obtain ⟨hf, rfl⟩ | henc | ⟨hignore, -⟩ := decodeWord_cases h
  · rw [h0, encode_decodeFamily0_fullWord hf]
  · exact henc
  · exact absurd (hn.symm.trans hignore) (by decide)

/-- Settles O9: the word is the instruction's own. -/
theorem wellFormedExactlyWhenDecoded : Obligations.WellFormedExactlyWhenDecoded := fun _ i =>
  ⟨fun h => ⟨encode i, decodeWord_encode h⟩, fun ⟨_, h⟩ => wellFormed_of_decodeWord h⟩

/-! ## The words the decoder rejects (R54, R56) -/

section
variable {w : Opcode}

theorem decodeFamily8_rejects_iff :
    (∃ e, decodeFamily8 w = .error e) ↔ opN w ∈ [0x8#4, 0x9#4, 0xA#4, 0xB#4, 0xC#4, 0xD#4, 0xF#4] := by
  unfold decodeFamily8
  split
  case h_10 =>
    have hn : opN w ∈ [0x8#4, 0x9#4, 0xA#4, 0xB#4, 0xC#4, 0xD#4, 0xF#4] := by
      generalize opN w = n at *
      revert n
      decide
    simp [hn]
  all_goals simp [*]

theorem decodeFamilyE_rejects_iff : (∃ e, decodeFamilyE w = .error e) ↔ opKK w ∉ [0x9E#8, 0xA1#8] := by
  unfold decodeFamilyE
  split <;> simp_all

theorem decodeFamilyF_rejects_iff :
    (∃ e, decodeFamilyF w = .error e) ↔
      opKK w ∉ [0x07#8, 0x0A#8, 0x15#8, 0x18#8, 0x1E#8, 0x29#8, 0x33#8, 0x55#8, 0x65#8] := by
  unfold decodeFamilyF
  split <;> simp_all

/-- The families that reject a word, each by the field it dispatches on (R52, R54). -/
theorem decodeWord_rejects_iff {p : Params} (hn : p.skipRegN = .strict) :
    (∃ e, decodeWord p w = .error e) ↔
      (opFamily w = 0x5#4 ∧ opN w ≠ 0x0#4) ∨
      (opFamily w = 0x8#4 ∧ opN w ∈ [0x8#4, 0x9#4, 0xA#4, 0xB#4, 0xC#4, 0xD#4, 0xF#4]) ∨
      (opFamily w = 0x9#4 ∧ opN w ≠ 0x0#4) ∨
      (opFamily w = 0xE#4 ∧ opKK w ∉ [0x9E#8, 0xA1#8]) ∨
      (opFamily w = 0xF#4 ∧ opKK w ∉ [0x07#8, 0x0A#8, 0x15#8, 0x18#8, 0x1E#8, 0x29#8, 0x33#8, 0x55#8, 0x65#8]) := by
  unfold decodeWord
  split
  case h_6 hf | h_10 hf => by_cases h : opN w = 0x0#4 <;> simp [hf, hn, skipRegNMatches, h]
  case h_9 hf => simp [hf, decodeFamily8_rejects_iff]
  case h_15 hf => simp [hf, decodeFamilyE_rejects_iff]
  case h_16 =>
    have hf : opFamily w = 0xF#4 := by apply nibble_eq_F <;> assumption
    simp [hf, decodeFamilyF_rejects_iff]
  all_goals simp [*]

end

/-- R56's table by the fields of the word. -/
theorem noOpWord_toNat_iff (w : Opcode) :
    Machine.NoOpWord w.toNat ↔
      (opFamily w = 0x0#4 ∧ w ≠ 0x00E0#16 ∧ w ≠ 0x00EE#16) ∨
      (opFamily w = 0x5#4 ∧ opN w ≠ 0x0#4) ∨
      (opFamily w = 0x8#4 ∧ opN w ∈ [0x8#4, 0x9#4, 0xA#4, 0xB#4, 0xC#4, 0xD#4, 0xF#4]) ∨
      (opFamily w = 0x9#4 ∧ opN w ≠ 0x0#4) ∨
      (opFamily w = 0xE#4 ∧ opKK w ∉ [0x9E#8, 0xA1#8]) ∨
      (opFamily w = 0xF#4 ∧ opKK w ∉ [0x07#8, 0x15#8, 0x18#8, 0x1E#8, 0x29#8, 0x33#8, 0x55#8, 0x65#8]) := by
  obtain ⟨hfamily, hn, hkk, -⟩ := toNat_fields w
  rw [Machine.NoOpWord, ← hfamily, ← hn, ← hkk]
  simp only [ne_eq, BitVec.toNat_eq, List.mem_cons, List.not_mem_nil, BitVec.toNat_ofNat, Nat.reducePow, Nat.reduceMod]

theorem div_4096_ne_zero_iff (w : Opcode) : w.toNat / 4096 ≠ 0 ↔ opFamily w ≠ 0x0#4 := by
  rw [← (toNat_fields w).1, ne_eq, ne_eq, BitVec.toNat_eq]
  rfl

/-- The words Fx0A. -/
theorem isFx0A_iff (w : Opcode) :
    (w.toNat / 4096 = 0xF ∧ w.toNat % 256 = 0x0A) ↔ opFamily w = 0xF#4 ∧ opKK w = 0x0A#8 := by
  obtain ⟨hfamily, -, hkk, -⟩ := toNat_fields w
  rw [← hfamily, ← hkk, BitVec.toNat_eq, BitVec.toNat_eq]
  rfl

/-- Settles O10: R56's table and the rejecting families agree line by line, but for family 0 and Fx0A. -/
theorem decoderRejectsExactlyTheNoOpEncodings : Obligations.DecoderRejectsExactlyTheNoOpEncodings := by
  intro p w _ hstrict
  rw [decodeWord_rejects_iff hstrict, noOpWord_toNat_iff, div_4096_ne_zero_iff, isFx0A_iff]
  constructor
  · rintro (⟨hf, h⟩ | ⟨hf, h⟩ | ⟨hf, h⟩ | ⟨hf, h⟩ | ⟨hf, h⟩) <;> simp_all
  · rintro ⟨⟨hf, h⟩ | ⟨hf, h⟩ | ⟨hf, h⟩ | ⟨hf, h⟩ | ⟨hf, h⟩ | ⟨hf, h⟩, hsys, hwait⟩ <;> simp_all

end Sys2Proof

namespace Sys2Proof.Machine

/-! ## The step of a no-op encoding (R56, R60) -/

/-- The word of two bytes as a number (R38). -/
theorem State.toNat_fetchWord (s : State) :
    s.fetchWord.toNat = (s.readByte s.pc).toNat * 256 + (s.readByte (s.pc + 1#12)).toNat := by
  rw [State.fetchWord, wordOfBytes, BitVec.toNat_append, ← Nat.shiftLeft_add_eq_or_of_lt (BitVec.isLt _),
    Nat.shiftLeft_eq]

/-- A core that runs does no more than fetch a word the decoder rejects (R56, R60). -/
theorem step_of_rejected {s : State} {e : NoOpEncoding} (hrun : s.halted = false)
    (h : decodeWord s.params s.fetchWord = .error e) : step s = .next s.fetched := by
  rw [step_of_running hrun, cycle, executeWord, State.fetched_params, h]

/-- Settles O2: the word is a SYS, an Fx0A or rejected, and the first two mean nothing beyond the fetch (R74, R115). -/
theorem noOpEncodingsRunOnlyTheirFetch : Obligations.NoOpEncodingsRunOnlyTheirFetch := by
  intro s hrun h0 hn hk hword
  change step s = .next s.fetched
  rw [← State.toNat_fetchWord] at hword
  by_cases hsys : opFamily s.fetchWord = 0x0#4
  · obtain ⟨hcls, hret⟩ : s.fetchWord ≠ 0x00E0#16 ∧ s.fetchWord ≠ 0x00EE#16 := by
      simpa [hsys] using (noOpWord_toNat_iff _).mp hword
    exact step_of_decoded hrun (decodeWord_sys h0 hsys hcls hret)
  by_cases hwait : opFamily s.fetchWord = 0xF#4 ∧ opKK s.fetchWord = 0x0A#8
  · obtain ⟨hf, hkk⟩ := hwait
    have hdecode : decodeWord s.params s.fetchWord = .ok (.ldVxK (opX s.fetchWord)) :=
      decodeWord_of_encode_eq (encodeXKK_eq hf hkk) rfl
    exact (step_of_decoded hrun hdecode).trans (execLdVxK_nop (s := s.fetched) hk _)
  obtain ⟨e, he⟩ := (decoderRejectsExactlyTheNoOpEncodings s.params s.fetchWord h0 hn).mpr
    ⟨hword, (div_4096_ne_zero_iff _).mpr hsys, mt (isFx0A_iff _).mp hwait⟩
  exact step_of_rejected hrun he

/-! ## The skips on two registers (R82, R83) -/

/-- A meaning that is a conditional skip writes nothing but PC. -/
theorem skipsIf_of_exec {i : Instr} {s : State} {b : Bool} {c : Prop} (h : exec i s = .next (s.skipIf b))
    (hb : b = true ↔ c) : SkipsIf i s c := by
  refine ⟨_, h, ?_⟩
  obtain ⟨hc, hs⟩ | ⟨hc, hs⟩ := s.skipIf_cases b
  · rw [hs]
    exact ⟨fun _ => rfl, fun hn => absurd (hb.mp hc) hn, rfl, fun _ => rfl⟩
  · rw [hs]
    exact ⟨fun hn => absurd (hb.mpr hn) (by simp [hc]), fun _ => rfl, rfl, fun _ => rfl⟩

/-- Settles O27: the meanings are conditional skips; R54's parameter is the decoder's test of `n`. -/
theorem registerSkips : Obligations.RegisterSkips := by
  intro x y
  refine ⟨fun s => ⟨?_, ?_⟩, fun p n => ⟨fun hstrict hn => ⟨?_, ?_⟩, fun hignore => ⟨?_, ?_⟩⟩⟩
  · exact skipsIf_of_exec rfl beq_iff_eq
  · exact skipsIf_of_exec rfl bne_iff_ne
  · exact (decodeWord_rejects_iff (w := encodeXYN 0x5#4 x y n) hstrict).mpr (by simp [hn])
  · exact (decodeWord_rejects_iff (w := encodeXYN 0x9#4 x y n) hstrict).mpr (by simp [hn])
  · change decodeWord p (encodeXYN 0x5#4 x y n) = _
    simp [decodeWord, hignore, skipRegNMatches]
  · change decodeWord p (encodeXYN 0x9#4 x y n) = _
    simp [decodeWord, hignore, skipRegNMatches]

end Sys2Proof.Machine

/-! SUPPORT. The cycle (R60 to R64): what a step answers, how a step faults, the tick as a run of steps (R65 to R69), and
the fault state along a sequence of host operations (R120, R149). -/

namespace Sys2Proof.Machine

/-! ## The step (R60, R64) -/

theorem step_of_halted {s : State} (h : s.halted = true) : step s = .next s := if_pos h

/-- Every step answers a next state (R116, R117). -/
theorem step_answers_next (s : State) : ∃ t, step s = .next t := by
  cases hrun : s.halted with
  | true => exact ⟨s, step_of_halted hrun⟩
  | false =>
    cases hdecode : decodeWord s.params s.fetchWord with
    | ok i =>
      obtain ⟨t, hexec, -⟩ := exec_outcome i s.fetched
      exact ⟨t, (step_of_decoded hrun hdecode).trans hexec⟩
    | error e => exact ⟨_, step_of_rejected hrun hdecode⟩

/-- Settles O1: the fetched word is the two bytes at PC, and the decoder accepts or rejects it. -/
theorem stepRunsDecodedInstruction : Obligations.StepRunsDecodedInstruction :=
  fun _ hrun => ⟨fun _ hdecode => step_of_decoded hrun hdecode, fun ⟨_, hreject⟩ => step_of_rejected hrun hreject⟩

/-! ## A step that faults (R63, R117) -/

/-- A step that halts the core is an instruction's fault on the fetched state. -/
theorem fault_of_step {s t : State} (hrun : s.halted = false) (h : step s = .next t) (hhalt : t.halted = true) :
    ∃ c, c ≠ .none ∧ t = s.fetched.raiseFault c := by
  have hunchanged : t.halted ≠ s.halted := by simp [hrun, hhalt]
  obtain ⟨-, rfl⟩ | ⟨-, i, -, hexec⟩ | ⟨-, e, -, rfl⟩ := step_cases h
  · exact absurd rfl hunchanged
  · obtain ⟨hsame, -⟩ | ⟨-, hfault⟩ := faultStatus_of_exec hexec
    · exact absurd hsame hunchanged
    · exact hfault
  · exact absurd rfl hunchanged

/-- A fault right after the fetch records the address of the instruction fetched. -/
theorem State.raiseFault_fetched (s : State) (c : FaultCode) :
    s.fetched.raiseFault c = { s.fetched with halted := true, faultCode := c, faultPc := s.pc } := by
  rw [← s.faultPc_fetched c]
  rfl

/-- Settles O19: a fault on the fetched state writes the fault status only. -/
theorem faultsArePrecise : Obligations.FaultsArePrecise := by
  intro s t hrun h hhalt
  obtain ⟨c, hc, rfl⟩ := fault_of_step hrun h hhalt
  exact ⟨s.raiseFault_fetched c, hc⟩

/-! ## The tick as a run of steps (R65 to R69) -/

/-- A state after which a batch runs no further cycle, however much of its budget is left (R64, R67). -/
def State.EndsBatch (s : State) : Prop := s.halted = true ∨ (s.vsync = true ∧ s.drawPending = true)

theorem State.not_endsBatch_iff {s : State} :
    ¬ s.EndsBatch ↔ s.halted = false ∧ ¬ (s.vsync = true ∧ s.drawPending = true) := by
  rw [State.EndsBatch, not_or, Bool.not_eq_true]

theorem State.vsyncStops_iff {s : State} : s.vsyncStops = true ↔ s.vsync = true ∧ s.drawPending = true :=
  Bool.and_eq_true_iff

theorem State.vsyncStops_clearDraw (s : State) : s.clearDraw.vsyncStops = false := Bool.and_false _

/-- A batch is a run of steps up to its budget or to the first state that ends it. A batch does not look for a pending
draw before its first cycle, hence the premise. -/
theorem batch_is_run {s : State} (hs : s.vsyncStops = false) (budget : Nat) :
    ∃ k u, k ≤ budget ∧ batch budget s = .next u ∧ core.run k s = .next u ∧ (k = budget ∨ u.EndsBatch) ∧
      ∀ j < k, ∃ w : State, core.run j s = .next w ∧ ¬ w.EndsBatch := by
  induction budget generalizing s with
  | zero => exact ⟨0, s, le_rfl, rfl, rfl, .inl rfl, fun j hj => absurd hj j.not_lt_zero⟩
  | succ budget ih =>
    cases hrun : s.halted with
    | true =>
      exact ⟨0, s, Nat.zero_le _, batch_halted hrun _, rfl, .inr (.inl hrun), fun j hj => absurd hj j.not_lt_zero⟩
    | false =>
      have hfirst : ¬ s.EndsBatch :=
        State.not_endsBatch_iff.2 ⟨hrun, fun hdraw => by simp [State.vsyncStops_iff.2 hdraw] at hs⟩
      obtain ⟨t, ht⟩ := step_answers_next s
      cases hstop : t.vsyncStops with
      | true =>
        refine ⟨1, t, by omega, ?_, core_run_succ ht 0, .inr (.inr (State.vsyncStops_iff.1 hstop)), fun j hj => ?_⟩
        · rw [batch_succ hrun ht, if_pos hstop]
        · obtain rfl : j = 0 := by omega
          exact ⟨s, rfl, hfirst⟩
      | false =>
        obtain ⟨k, u, hk, hbatch, hu, hend, hbefore⟩ := ih hstop
        refine ⟨k + 1, u, by omega, ?_, (core_run_succ ht k).trans hu, hend.imp_left (congrArg (· + 1)), ?_⟩
        · rw [batch_succ hrun ht, hstop, if_neg Bool.false_ne_true, hbatch]
        · rintro (_ | j) hj
          · exact ⟨s, rfl, hfirst⟩
          · rw [core_run_succ ht]
            exact hbefore j (by omega)

theorem tick_of_batch {s u : State} (h : batch s.clockRate.toNat s.clearDraw = .next u) :
    tick s = .next (u.tickTimers.latchSound, u.tickTimers.notifications) := by
  rw [tick, h]

/-- A timer is one less, and stays at 0 (R69). -/
theorem timerTick_toNat (b : Byte) : (timerTick b).toNat = b.toNat - 1 := by
  unfold timerTick
  split <;> bv_omega

theorem State.soundActive_eq (s : State) : s.soundActive = decide (0 < s.st.toNat) := by
  rw [Bool.eq_iff_iff, State.soundActive, bne_iff_ne, decide_eq_true_iff]
  bv_omega

/-- R130's condition on the second event: the predicate differs from the latch. -/
theorem State.notifications_eq (s : State) :
    s.notifications = (if s.drawPending = true then [Notification.frameReady s.fb] else []) ++
      (if s.soundActive = s.soundLatch then [] else [Notification.soundStateChanged s.soundActive]) := by
  simp only [State.notifications, bne_iff_ne, ne_eq, ite_not]

/-- Settles O45: the batch is a run of steps, none of which writes the sound latch that `Notify` compares with. -/
theorem tickRunsABatchThenTimers : Obligations.TickRunsABatchThenTimers := by
  intro s
  obtain ⟨k, u, hk, hbatch, hrun, hend, hbefore⟩ := batch_is_run s.vsyncStops_clearDraw s.clockRate.toNat
  have hhost : u.hostState = s.hostState :=
    batch_induction (P := fun v => v.hostState = s.hostState) (fun h => (hostState_of_step h).trans) hbatch rfl
  obtain ⟨-, -, -, hlatch, -⟩ := State.hostState_eq_iff.1 hhost
  refine ⟨k, u, _, hk, hrun, hend, fun j hj => ?_, _, tick_of_batch hbatch, timerTick_toNat _, timerTick_toNat _,
    u.tickTimers.soundActive_eq, ?_, rfl⟩
  · obtain ⟨w, hw, hgoes⟩ := hbefore j hj
    exact ⟨w, hw, State.not_endsBatch_iff.1 hgoes⟩
  · rw [← hlatch]
    exact u.tickTimers.notifications_eq

/-- A batch without a budget, or of a halted core, runs no cycle (R68). -/
theorem batch_without_cycles {s : State} (h : s.clockRate = 0#32 ∨ s.halted = true) :
    batch s.clockRate.toNat s.clearDraw = .next s.clearDraw := by
  obtain hrate | hhalt := h
  · rw [hrate]
    rfl
  · exact batch_halted (s := s.clearDraw) hhalt _

/-- Settles O46: what is left of the tick is the clearing of the flag, the timers and the latch. -/
theorem tickWithoutCyclesLowersTimers : Obligations.TickWithoutCyclesLowersTimers :=
  fun _ h => ⟨_, _, tick_of_batch (batch_without_cycles h), timerTick_toNat _, timerTick_toNat _, rfl, rfl⟩

/-! ## The fault state is left by four operations only (R64, R120) -/

/-- The operations that clear `halted`, unless LoadProgram rejects its program (R120, R142). -/
def HostOp.MayClearHalted (o : HostOp) : Prop :=
  o = .initCore ∨ (∃ bytes length, o = .loadProgram bytes length) ∨ o = .partialReset ∨ ∃ rec, o = .loadState rec

theorem HostOp.not_mayClearHalted_iff {o : HostOp} :
    ¬ o.MayClearHalted ↔
      o ≠ .initCore ∧ (∀ bytes length, o ≠ .loadProgram bytes length) ∧ o ≠ .partialReset ∧
        ∀ rec, o ≠ .loadState rec := by
  simp only [HostOp.MayClearHalted, not_or, not_exists, ne_eq]

theorem halted_of_tick {s t : State} {notes : List Notification} (h : tick s = .next (t, notes))
    (hhalt : s.halted = true) : t.halted = true := by
  rw [tick_of_batch (batch_without_cycles (.inr hhalt))] at h
  obtain ⟨rfl, -⟩ := Prod.mk.inj (Host.Outcome.next.inj h)
  exact hhalt

theorem State.halted_setKey (s : State) (k : Nat) (pressed : Bool) : (s.setKey k pressed).halted = s.halted := by
  unfold State.setKey
  split <;> rfl

/-- Every other operation leaves a halted core halted. -/
theorem halted_of_perform {o : HostOp} {s : State} {r : HostResult} (h : perform o s = .next r)
    (hhalt : s.halted = true) (ho : ¬ o.MayClearHalted) : r.state.halted = true := by
  cases o with
  | initCore => exact absurd (.inl rfl) ho
  | loadProgram bytes length => exact absurd (.inr (.inl ⟨bytes, length, rfl⟩)) ho
  | partialReset => exact absurd (.inr (.inr (.inl rfl))) ho
  | loadState rec => exact absurd (.inr (.inr (.inr ⟨rec, rfl⟩))) ho
  | tick => exact halted_of_tick (perform_tick_cases h).1 hhalt
  | getPixel x y =>
    rw [getPixel_state h]
    exact hhalt
  | setKey k pressed =>
    obtain rfl := Host.Outcome.next.inj h
    exact (s.halted_setKey k pressed).trans hhalt
  | setClockRate | setVsync | shouldPresentFrame | isSoundActive | getClockRate | saveState | readState =>
    obtain rfl := Host.Outcome.next.inj h
    exact hhalt

/-- Settles O3: a halted step is no cycle, and every operation but the four leaves the core halted. -/
theorem haltedCoreRunsNoCycle : Obligations.HaltedCoreRunsNoCycle := by
  refine ⟨fun _ => step_of_halted, fun o s r hhalt h hrun => ?_⟩
  by_contra ho
  exact Bool.false_ne_true (hrun.symm.trans (halted_of_perform h hhalt ho))

/-! ## Sequences of operations and runs (R149) -/

/-- A sequence that answers: its first operation answers, and the rest answers from there. -/
theorem performAll_cons_iff {o : HostOp} {rest : List HostOp} {s t : State} {notes : List Notification} :
    performAll (o :: rest) s = .next (t, notes) ↔
      ∃ r later, perform o s = .next r ∧ performAll rest r.state = .next (t, later) ∧ notes = r.notes ++ later := by
  constructor
  · intro h
    simp only [performAll] at h
    split at h
    next r hr =>
      split at h
      next u later hrest =>
        obtain ⟨rfl, rfl⟩ := Prod.mk.inj (Host.Outcome.next.inj h)
        exact ⟨r, later, hr, hrest, rfl⟩
      next => nomatch h
      next => nomatch h
    next => nomatch h
    next => nomatch h
  · rintro ⟨r, later, hr, hrest, rfl⟩
    simp only [performAll, hr, hrest]

/-- A sequence that answers, answers up to each of its operations and from there on. -/
theorem performAll_append {before after : List HostOp} {s t : State} {notes : List Notification}
    (h : performAll (before ++ after) s = .next (t, notes)) :
    ∃ u seen later, performAll before s = .next (u, seen) ∧ performAll after u = .next (t, later) := by
  induction before generalizing s notes with
  | nil => exact ⟨s, [], notes, rfl, h⟩
  | cons o rest ih =>
    obtain ⟨r, tail, hr, hrest, -⟩ := performAll_cons_iff.1 h
    obtain ⟨u, seen, later, hbefore, hafter⟩ := ih hrest
    exact ⟨u, r.notes ++ seen, later, performAll_cons_iff.2 ⟨r, seen, hr, hbefore, rfl⟩, hafter⟩

/-- A halted core stays halted along a sequence of operations other than the four. -/
theorem halted_of_performAll {ops : List HostOp} {s t : State} {notes : List Notification}
    (h : performAll ops s = .next (t, notes)) (hhalt : s.halted = true) (hops : ∀ o ∈ ops, ¬ o.MayClearHalted) :
    t.halted = true := by
  induction ops generalizing s notes with
  | nil =>
    obtain ⟨rfl, -⟩ := Prod.mk.inj (Host.Outcome.next.inj h)
    exact hhalt
  | cons o rest ih =>
    obtain ⟨r, later, hr, hrest, -⟩ := performAll_cons_iff.1 h
    obtain ⟨ho, hrestOps⟩ := List.forall_mem_cons.1 hops
    exact ih hrest (halted_of_perform hr hhalt ho) hrestOps

/-- Settles O55: a sequence halted after its first part would end halted. -/
theorem unhaltedRunNeverFaulted : Obligations.UnhaltedRunNeverFaulted := by
  intro before after s t notes hops h hend
  obtain ⟨u, seen, later, hbefore, hafter⟩ := performAll_append h
  refine ⟨u, seen, hbefore, fun hfaulted => hend (halted_of_performAll hafter hfaulted fun o ho => ?_)⟩
  exact HostOp.not_mayClearHalted_iff.2 (hops o (List.mem_append_right before ho))

/-- A run holds none of the four (R149). -/
theorem HostOp.not_mayClearHalted_of_inRun {o : HostOp} (h : o.inRun = true) : ¬ o.MayClearHalted := by
  rintro (rfl | ⟨bytes, length, rfl⟩ | rfl | ⟨rec, rfl⟩) <;> nomatch h

/-- A run is a launch followed by operations that a run may hold. -/
theorem hostRun_eq_some_iff {p : Params} {prog : List Byte} {ops : List HostOp}
    {result : Host.Outcome (State × List Notification) Fault Refusal} :
    hostRun p prog ops = some result ↔
      (∀ o ∈ ops, o.inRun = true) ∧ ∃ s, launch p prog = some s ∧ performAll ops s = result := by
  rw [hostRun, Option.ite_none_right_eq_some, List.all_eq_true, Option.map_eq_some_iff]

/-- Settles O57: the operations of a run after its launch are a sequence as in O55, and so is each first part of them. -/
theorem unhaltedRunIsUnhaltedThroughout : Obligations.UnhaltedRunIsUnhaltedThroughout := by
  intro p prog before after t notes h hend
  obtain ⟨hops, s, hlaunch, hrun⟩ := hostRun_eq_some_iff.1 h
  obtain ⟨u, seen, hbefore, hu⟩ := unhaltedRunNeverFaulted before after s t notes
    (fun o ho => HostOp.not_mayClearHalted_iff.1 (HostOp.not_mayClearHalted_of_inRun (hops o ho))) hrun hend
  have hfirst : ∀ o ∈ before, o.inRun = true := fun o ho => hops o (List.mem_append_left after ho)
  exact ⟨u, seen, hostRun_eq_some_iff.2 ⟨hfirst, s, hlaunch, hbefore⟩, hu⟩

end Sys2Proof.Machine

/-! SUPPORT. Control transfer (R74 to R78): SYS, the two jumps, CALL and RET, and what a meaning that faults answers
(R117). -/

namespace Sys2Proof.Machine

/-! ## Faults (R117) -/

/-- An instruction whose meaning is a fault raises it: the fault status is written and nothing else. -/
theorem raises_of_exec {i : Instr} {s : State} {code : FaultCode} (h : exec i s = .next (s.raiseFault code)) :
    Raises i s code := by
  obtain ⟨hwrites, haddr⟩ := s.raiseFault_spec code
  exact ⟨_, h, hwrites, haddr, s.raiseFault_readByte code⟩

/-! ## SYS and the jumps (R74, R76, R78) -/

/-- Settles O22: the meaning of SYS is the identity. -/
theorem sysDoesNothing : Obligations.SysDoesNothing := fun _ _ => rfl

theorem State.onlyPc_setPc (s : State) (a : Addr) : OnlyPc s (s.setPc a) := ⟨rfl, s.setPc_readByte a⟩

/-- A byte added to an address is added mod 4096. -/
theorem toNat_setWidth_add (b : Byte) (a : Addr) : (b.setWidth 12 + a).toNat = (b.toNat + a.toNat) % 4096 := by
  rw [BitVec.toNat_add, BitVec.toNat_setWidth_of_le (by decide)]

/-- Settles O23: both jumps are a write of PC, JP V0's of a 12-bit sum. -/
theorem jumpsSetPc : Obligations.JumpsSetPc := fun nnn s =>
  ⟨⟨_, rfl, rfl, s.onlyPc_setPc nnn⟩, _, rfl, toNat_setWidth_add (s.readV 0x0#4) nnn, s.onlyPc_setPc _⟩

/-! ## CALL (R77) -/

theorem State.readStack_push_top {s : State} (h : s.sp.toNat < 16) (a : Addr) :
    (s.push a).readStack s.sp.toNat = a := by
  rw [State.readStack_push, if_pos ⟨rfl, h⟩]

theorem State.readStack_push_of_ne {s : State} {k : Nat} (hk : k ≠ s.sp.toNat) (a : Addr) :
    (s.push a).readStack k = s.readStack k := by
  rw [State.readStack_push, if_neg fun h => hk h.1]

theorem State.toNat_sp_push {s : State} (h : s.sp.toNat < 16) (a : Addr) :
    (s.push a).sp.toNat = s.sp.toNat + 1 := by
  rw [State.push_sp]
  bv_omega

/-- Settles O24: with a free entry CALL is a push and a jump, with none it is a fault. -/
theorem callPushesOrOverflows : Obligations.CallPushesOrOverflows := by
  intro nnn s
  constructor
  · intro h
    exact ⟨_, execCall_push h nnn, State.readStack_push_top h s.pc, fun k _ hk => State.readStack_push_of_ne hk s.pc,
      State.toNat_sp_push h s.pc, rfl, rfl, fun _ => rfl⟩
  · intro h
    exact raises_of_exec (execCall_full h nnn)

/-! ## RET (R75) -/

theorem State.toNat_sp_popPc {s : State} (h : 0 < s.sp.toNat) : s.popPc.sp.toNat = s.sp.toNat - 1 := by
  rw [State.popPc_sp]
  bv_omega

/-- A pop jumps to the top entry. -/
theorem State.pc_popPc {s : State} (h : 0 < s.sp.toNat) : s.popPc.pc = s.readStack (s.sp.toNat - 1) :=
  congrArg s.readStack (State.toNat_sp_popPc h)

/-- Settles O25: with SP from 1 to 16 RET is a pop, outside it is one of two faults. -/
theorem retPopsOrFaults : Obligations.RetPopsOrFaults := by
  intro s
  refine ⟨?pop, ?empty, ?overfull⟩
  case pop =>
    intro h0 h16
    exact ⟨_, execRet_pop h0 h16, State.toNat_sp_popPc h0, State.pc_popPc h0, rfl, s.popPc_readByte⟩
  case empty => exact fun h => raises_of_exec (execRet_empty h)
  case overfull => exact fun h => raises_of_exec (execRet_overfull h)

end Sys2Proof.Machine

/-! SUPPORT. The skips on an immediate and on a key (R80, R81, R84 to R86), and the key a value names. -/

namespace Sys2Proof.Machine

/-! ## The key a value names (R84) -/

/-- The low nibble is the value mod 16. -/
theorem toNat_and_lowNibble (b : Byte) : (b &&& 0x0F#8).toNat = b.toNat % 16 := by
  rw [BitVec.toNat_and]
  exact Nat.and_two_pow_sub_one_eq_mod b.toNat 4

theorem keyIndex_eq_mod {m : KeyIndexMode} {b : Byte} (h : b.toNat ≤ 15 ∨ m = .lowNibble) :
    keyIndex m b = some (b.toNat % 16) := by
  by_cases hb : b.toNat ≤ 15
  · rw [Nat.mod_eq_of_lt (Nat.lt_succ_of_le hb)]
    exact if_pos hb
  · obtain rfl := h.resolve_left hb
    rw [← toNat_and_lowNibble]
    exact if_neg hb

theorem keyIndex_fault {b : Byte} (h : 15 < b.toNat) : keyIndex .fault b = none := if_neg h.not_ge

/-! ## The skips -/

/-- Settles O28: where Vx names a key both meanings are a conditional skip on it, elsewhere both are the fault. -/
theorem keySkips : Obligations.KeySkips := by
  intro x s
  constructor
  · intro h
    have hkey := keyIndex_eq_mod h
    exact ⟨skipsIf_of_exec (execSkp_key hkey) Iff.rfl, skipsIf_of_exec (execSknp_key hkey) (Bool.not_eq_true' _).to_iff⟩
  · intro hbig hfault
    have hnone : keyIndex s.params.keyIndex (s.readV x) = none := by rw [hfault, keyIndex_fault hbig]
    exact ⟨raises_of_exec (execSkp_noKey hnone), raises_of_exec (execSknp_noKey hnone)⟩

/-- Settles O26: both meanings are a conditional skip on the comparison of Vx with the immediate. -/
theorem immediateSkips : Obligations.ImmediateSkips := fun _ _ _ =>
  ⟨skipsIf_of_exec rfl beq_iff_eq, skipsIf_of_exec rfl bne_iff_ne⟩

end Sys2Proof.Machine

/-! SUPPORT. Loads, arithmetic, logic and the random number (R88 to R101): what a meaning that writes one register or a
register and a flag answers, and what the flags and the random byte are as numbers. -/

namespace Sys2Proof.Machine

/-! ## A write of one register (R89 to R94) -/

theorem State.readV_writeV_same (s : State) (x : Reg) (b : Byte) : (s.writeV x b).readV x = b := by
  rw [State.readV_writeV, if_pos rfl]

theorem State.readV_writeV_of_ne {x r : Reg} (h : r ≠ x) (s : State) (b : Byte) :
    (s.writeV x b).readV r = s.readV r := by
  rw [State.readV_writeV, if_neg h]

theorem State.onlyV_writeV (s : State) (x : Reg) (b : Byte) : OnlyV s (s.writeV x b) := ⟨rfl, s.writeV_readByte x b⟩

/-- An instruction whose meaning is a write of Vx sets Vx and nothing else. -/
theorem setsV_of_exec {i : Instr} {s : State} {x : Reg} {b : Byte} {val : Nat} (h : exec i s = .next (s.writeV x b))
    (hb : b.toNat = val) : SetsV i s x val :=
  ⟨_, h, by rw [State.readV_writeV_same, hb], fun _ hr => State.readV_writeV_of_ne hr s b, s.onlyV_writeV x b⟩

/-- Settles O29: each meaning is one write of Vx, of the value as a number. -/
theorem loadsAndLogicSetVx : Obligations.LoadsAndLogicSetVx := fun _ _ _ _ =>
  ⟨setsV_of_exec rfl rfl, setsV_of_exec rfl (BitVec.toNat_add ..), setsV_of_exec rfl rfl,
    setsV_of_exec rfl (BitVec.toNat_or ..), setsV_of_exec rfl (BitVec.toNat_and ..),
    setsV_of_exec rfl (BitVec.toNat_xor ..)⟩

/-! ## The flags and the results as numbers (R95 to R99) -/

section
variable (a b : Byte)

theorem toNat_b2u (c : Prop) [Decidable c] : (b2u (decide c)).toNat = if c then 1 else 0 := by
  by_cases hc : c <;> simp [b2u, hc]

theorem toNat_addResult : (addResult a b).toNat = (a.toNat + b.toNat) % 256 := BitVec.toNat_add ..

theorem toNat_subResult : (subResult a b).toNat = (a.toNat + 256 - b.toNat) % 256 := by
  rw [subResult]
  bv_omega

theorem toNat_subnResult : (subnResult a b).toNat = (b.toNat + 256 - a.toNat) % 256 := toNat_subResult b a

theorem toNat_shrFlag : (shrFlag a b).toNat = a.toNat % 2 := by
  rw [shrFlag, BitVec.toNat_and]
  exact Nat.and_one_is_mod _

theorem toNat_shrResult : (shrResult a b).toNat = a.toNat / 2 := by
  rw [shrResult, BitVec.toNat_ushiftRight, Nat.shiftRight_eq_div_pow, pow_one]

/-- The bit shifted out on the left is the byte's high half. -/
theorem toNat_shlFlag : (shlFlag a b).toNat = a.toNat / 128 := by
  have hbit : (shlFlag a b).toNat = a.toNat / 128 % 2 := by
    rw [shlFlag, BitVec.toNat_and, BitVec.toNat_ushiftRight, Nat.shiftRight_eq_div_pow]
    exact Nat.and_one_is_mod _
  rw [hbit]
  exact Nat.mod_eq_of_lt (by omega)

theorem toNat_shlResult : (shlResult a b).toNat = a.toNat * 2 % 256 := by
  rw [shlResult, BitVec.toNat_shiftLeft, Nat.shiftLeft_eq, pow_one]

end

/-! ## The two writes (R88) -/

/-- An instruction whose meaning is the flagged write of `f` and `r` writes the numbers that `f` and `r` compute. -/
theorem writesFlagged_of_exec {i : Instr} {s : State} {x y : Reg} {f r : Byte → Byte → Byte} {fn rn : Nat → Nat → Nat}
    (h : exec i s = .next (s.writeFlagged x y f r)) (hf : ∀ a b, (f a b).toNat = fn a.toNat b.toNat)
    (hr : ∀ a b, (r a b).toNat = rn a.toNat b.toNat) : WritesFlagged i s x y fn rn := by
  refine ⟨_, h, ⟨s.writeFlagged_eq x y f r, fun a => ?memory⟩, ?sequential, ?snapshot⟩
  case memory => rw [State.writeFlagged_eq]; rfl
  case sequential =>
    intro hseq v' q
    rw [State.readV_writeFlagged_sequential hseq]
    simp only [apply_ite BitVec.toNat, hf, hr, v']
  case snapshot =>
    intro hsnap q
    rw [State.readV_writeFlagged_snapshot hsnap]
    simp only [apply_ite BitVec.toNat, hf, hr]

/-- Settles O30: the five meanings are flagged writes. -/
theorem flaggedArithmetic : Obligations.FlaggedArithmetic := fun _ _ _ =>
  ⟨writesFlagged_of_exec rfl (fun _ _ => toNat_b2u _) toNat_addResult,
    writesFlagged_of_exec rfl (fun _ _ => toNat_b2u _) toNat_subResult,
    writesFlagged_of_exec rfl toNat_shrFlag toNat_shrResult,
    writesFlagged_of_exec rfl (fun _ _ => toNat_b2u _) toNat_subnResult,
    writesFlagged_of_exec rfl toNat_shlFlag toNat_shlResult⟩

/-- The state under another `P_VF_ORDER`. -/
def State.withVfOrder (s : State) (o : VfOrder) : State := { s with params := { s.params with vfOrder := o } }

@[simp] theorem State.readV_withVfOrder (s : State) (o : VfOrder) (r : Reg) :
    (s.withVfOrder o).readV r = s.readV r := rfl

/-- With VF no operand, the second write reads under `sequential` what it reads under `snapshot`, and the two writes
are of different registers. -/
theorem State.v_writeFlagged_snapshot {x y : Reg} (hx : x ≠ VF) (hy : y ≠ VF) (s : State) (f r : Byte → Byte → Byte) :
    ((s.withVfOrder .snapshot).writeFlagged x y f r).v = ((s.withVfOrder .sequential).writeFlagged x y f r).v := by
  refine State.v_eq_of_readV fun q => ?_
  rw [State.readV_writeFlagged_snapshot rfl, State.readV_writeFlagged_sequential rfl, if_neg hx, if_neg hy]
  simp only [State.readV_withVfOrder]
  by_cases hq : q = VF
  · rw [if_pos hq, if_neg fun h => hx (h.symm.trans hq), if_pos hq]
  · rw [if_neg hq, if_neg hq]

theorem State.writeFlagged_snapshot {x y : Reg} (hx : x ≠ VF) (hy : y ≠ VF) (s : State) (f r : Byte → Byte → Byte) :
    (s.withVfOrder .snapshot).writeFlagged x y f r =
      { (s.withVfOrder .sequential).writeFlagged x y f r with
        params := ((s.withVfOrder .snapshot).writeFlagged x y f r).params } := by
  rw [State.writeFlagged_eq, State.v_writeFlagged_snapshot hx hy]
  rfl

/-- Settles O31: the five meanings are flagged writes, whose order does not show. -/
theorem vfOrdersAgreeWithoutVfOperand : Obligations.VfOrdersAgreeWithoutVfOperand := by
  intro x y s hx hy i hi
  simp only [List.mem_cons, List.not_mem_nil, or_false] at hi
  obtain rfl | rfl | rfl | rfl | rfl := hi <;> exact ⟨_, _, rfl, rfl, s.writeFlagged_snapshot hx hy _ _⟩

/-! ## The random number (R100, R101) -/

theorem toNat_nextSeed (seed : Word32) : (nextSeed seed).toNat = (seed.toNat * 214013 + 2531011) % 2 ^ 32 := by
  rw [nextSeed, BitVec.toNat_add, BitVec.toNat_mul, Nat.add_mod_mod, Nat.add_comm, Nat.mul_comm]
  rfl

theorem toNat_prngByte (sh : PrngShift) (seed : Word32) :
    (prngByte sh seed).toNat = seed.toNat / 2 ^ PrngShift.amount sh % 256 := by
  rw [prngByte, BitVec.toNat_setWidth, BitVec.toNat_ushiftRight, Nat.shiftRight_eq_div_pow]

/-- The register that holds a random byte masked with `kk`. -/
theorem toNat_readV_writeV_prngByte (s : State) (x : Reg) (kk : Byte) (sh : PrngShift) (seed : Word32) :
    ((s.writeV x (prngByte sh seed &&& kk)).readV x).toNat =
      (seed.toNat / 2 ^ PrngShift.amount sh % 256) &&& kk.toNat := by
  rw [State.readV_writeV_same, BitVec.toNat_and, toNat_prngByte]

/-- Settles O32: RND advances the seed, then writes Vx from the new seed. -/
theorem rndDrawsOneByte : Obligations.RndDrawsOneByte := by
  intro x kk s
  refine ⟨_, rfl, toNat_nextSeed s.seed, fun h16 => ?shift16, fun h24 => ?shift24, fun r hr => ?others, rfl,
    fun _ => rfl⟩
  case shift16 =>
    rw [h16]
    exact toNat_readV_writeV_prngByte s.advanceSeed x kk .shift16 _
  case shift24 =>
    rw [h24]
    exact toNat_readV_writeV_prngByte s.advanceSeed x kk .shift24 _
  case others => exact State.readV_writeV_of_ne hr s.advanceSeed _

end Sys2Proof.Machine

/-! SUPPORT. DRW's loops (R109) against the statement's own account of them: a canvas shows the pixels and the VF that
the visits of `spriteVisit` have reached, and each bit of the sprite keeps it so. -/

namespace Sys2Proof.Machine

/-- The canvas holds the pixels and the flag `d`. The flag of a draw is 0 or 1, which is what makes R109's or with a
pixel the choice that `spriteVisit` writes. -/
structure Canvas.Shows (c : Canvas) (d : (Nat → Bool) × Nat) : Prop where
  pixel : ∀ q, Framebuffer.pixel c.fb q = d.1 q
  vf : c.vf.toNat = d.2
  flag : c.vf = 0#8 ∨ c.vf = 1#8

/-- Each coordinate of the sprite's corner is the canvas's VF when the register is VF under `sequential`, and the
register before the instruction otherwise (R88, R109). -/
theorem drawOrigin_eq (s : State) (x y : Reg) (c : Canvas) :
    drawOrigin s x y c =
      (if x = VF ∧ s.params.vfOrder = .sequential then c.vf.toNat else (s.readV x).toNat,
        if y = VF ∧ s.params.vfOrder = .sequential then c.vf.toNat else (s.readV y).toNat) := by
  cases h : s.params.vfOrder <;> simp [drawOrigin, Canvas.reg, h, apply_ite BitVec.toNat]

/-- Drawing a pixel flips it and puts its old value into the flag (R109). -/
theorem Canvas.Shows.drawPixel {c : Canvas} {d : (Nat → Bool) × Nat} (h : c.Shows d) {t : Nat} (ht : t < 2048) :
    (c.drawPixel t).Shows (fun q => if q = t then !d.1 q else d.1 q, if d.1 t then 1 else d.2) := by
  obtain ⟨hvf, hpixel⟩ := Canvas.drawPixel_spec (c := c) ht
  have hor : (c.drawPixel t).vf = if d.1 t then 1#8 else c.vf := by
    rw [hvf, h.pixel, b2u]
    obtain h0 | h1 := h.flag <;> split <;> simp [*]
  refine ⟨fun q => ?pixel, ?vf, ?flag⟩
  case pixel =>
    rw [hpixel, h.pixel]
    by_cases hq : q = t <;> simp [hq]
  case vf => rw [hor, apply_ite BitVec.toNat, h.vf]; rfl
  case flag =>
    rw [hor]
    split
    · exact .inr rfl
    · exact h.flag

/-- One bit of the sprite is one visit. -/
theorem Canvas.Shows.drawBit {c : Canvas} {d : (Nat → Bool) × Nat} (h : c.Shows d) (s : State) (x y : Reg)
    (row col : Nat) : (drawBit s x y row c col).Shows (spriteVisit s x y d (row, col)) := by
  simp only [Machine.drawBit, spriteVisit, State.spriteBit, drawOrigin_eq, h.vf]
  split
  · generalize hplace : place s.params _ _ = p
    cases p with
    | none => exact h
    | some t => exact h.drawPixel (place_lt hplace)
  · exact h

/-- DRW's nested loops run over the sprite's bits in the order of `spriteOrder`. -/
theorem drawSprite_eq_foldl (s : State) (x y : Reg) (n : Nat) :
    drawSprite s x y n =
      (spriteOrder n).foldl (fun c rc => drawBit s x y rc.1 c rc.2) { vf := 0#8, fb := s.fb } := by
  simp only [spriteOrder, List.foldl_flatMap, List.foldl_map]
  rfl

theorem drawSprite_shows (s : State) (x y : Reg) (n : Nat) :
    (drawSprite s x y n).Shows ((spriteOrder n).foldl (spriteVisit s x y) (s.pixel, 0)) := by
  rw [drawSprite_eq_foldl]
  exact List.foldl_rel ⟨fun _ => rfl, rfl, .inl rfl⟩ fun rc _ _ _ h => h.drawBit s x y rc.1 rc.2

/-- Settles O40: DRW puts back the canvas of the sprite's visits. -/
theorem drwVisitsSpriteInOrder : Obligations.DrwVisitsSpriteInOrder := by
  intro x y n s
  have hshows := drawSprite_shows s x y n.toNat
  obtain ⟨-, hreg, -⟩ := s.putCanvas_spec (drawSprite s x y n.toNat)
  refine ⟨_, rfl, ⟨fun q _ => hshows.pixel q, ?vf⟩, rfl, fun r hr => (hreg r).trans (if_neg hr), rfl, fun _ => rfl⟩
  case vf => exact (congrArg BitVec.toNat ((hreg VF).trans (if_pos rfl))).trans hshows.vf

end Sys2Proof.Machine

/-! SUPPORT. The index register and the transfers between registers and RAM (R102 to R107): writes of I, the three
digits of LD B, and the two block transfers. -/

namespace Sys2Proof.Machine

/-! ## A write of I (R102 to R104) -/

theorem State.onlyI_setI (s : State) (a : Addr) : OnlyI s (s.setI a) := ⟨rfl, s.setI_readByte a⟩

/-- An instruction whose meaning is a write of I sets I and nothing else. -/
theorem setsI_of_exec {i : Instr} {s : State} {a : Addr} {val : Nat} (h : exec i s = .next (s.setI a))
    (ha : a.toNat = val) : SetsI i s val :=
  ⟨_, h, ha, s.onlyI_setI a⟩

/-- An address plus a byte is their sum mod 4096. -/
theorem toNat_add_setWidth (a : Addr) (b : Byte) : (a + b.setWidth 12).toNat = (a.toNat + b.toNat) % 4096 := by
  rw [BitVec.add_comm, toNat_setWidth_add, Nat.add_comm]

/-- Settles O34: each meaning is one write of I, of the address as a number. -/
theorem indexInstructionsSetI : Obligations.IndexInstructionsSetI := fun _ x s =>
  ⟨setsI_of_exec rfl rfl, setsI_of_exec rfl (toNat_add_setWidth s.i (s.readV x)),
    setsI_of_exec rfl (BitVec.toNat_ofNat ..)⟩

/-! ## The decimal digits (R105) -/

section
variable (b : Byte)

theorem toNat_hundredsDigit : (hundredsDigit b).toNat = b.toNat / 100 :=
  Nat.mod_eq_of_lt (by omega)

theorem toNat_tensDigit : (tensDigit b).toNat = b.toNat / 10 % 10 :=
  Nat.mod_eq_of_lt (by omega)

theorem toNat_onesDigit : (onesDigit b).toNat = b.toNat % 10 :=
  Nat.mod_eq_of_lt (by omega)

end

/-- The state after the three stores of LD B. -/
def State.storeDigits (s : State) (b : Byte) : State :=
  ((s.writeByte (s.memAddr 0) (hundredsDigit b)).writeByte (s.memAddr 1) (tensDigit b)).writeByte (s.memAddr 2)
    (onesDigit b)

theorem exec_ldB (x : Reg) (s : State) : exec (.ldB x) s = .next (s.storeDigits (s.readV x)) := rfl

/-- Each store keeps the canonical form, so the next one reads back too. -/
theorem State.readByte_storeDigits {s : State} (hs : s.MemOk) (b : Byte) (a : Addr) :
    (s.storeDigits b).readByte a =
      if a = s.memAddr 2 then onesDigit b else if a = s.memAddr 1 then tensDigit b
      else if a = s.memAddr 0 then hundredsDigit b else s.readByte a := by
  have hs₁ := State.wf_writeByte hs (s.memAddr 0) (hundredsDigit b)
  have hs₂ := State.wf_writeByte hs₁ (s.memAddr 1) (tensDigit b)
  rw [State.storeDigits, State.readByte_writeByte hs₂, State.readByte_writeByte hs₁, State.readByte_writeByte hs]

/-- Only RAM differs after the three stores, at three addresses. -/
theorem State.onlyMemAt_storeDigits {s : State} (hs : s.MemOk) (b : Byte) :
    OnlyMemAt (fun a => ∃ k < 3, a = s.memAddr k) s (s.storeDigits b) := by
  refine ⟨rfl, fun a ha => ?_⟩
  have hne : ∀ k < 3, a ≠ s.memAddr k := fun k hk h => ha ⟨k, hk, h⟩
  rw [State.readByte_storeDigits hs, if_neg (hne 2 (by decide)), if_neg (hne 1 (by decide)), if_neg (hne 0 (by decide))]

/-- Settles O35: the three addresses are distinct, so each holds the digit stored there. -/
theorem bcdStoresDigits : Obligations.BcdStoresDigits := by
  intro x s hs
  have hread := State.readByte_storeDigits hs (s.readV x)
  refine ⟨_, exec_ldB x s, ?hundreds, ?tens, ?ones, State.onlyMemAt_storeDigits hs _⟩
  case hundreds => simp [hread, State.memAddr_inj, toNat_hundredsDigit]
  case tens => simp [hread, State.memAddr_inj, toNat_tensDigit]
  case ones => simp [hread, toNat_onesDigit]

/-! ## The block transfers (R106, R107) -/

/-- A block that ends with Vx holds at most the 16 registers. -/
theorem blockCount_le (x : Reg) : x.toNat + 1 ≤ 16 := x.isLt

/-- Settles O36: the meaning is a block store of x + 1 registers. -/
theorem blockStoreWritesRegisters : Obligations.BlockStoreWritesRegisters := by
  intro x s hs
  obtain ⟨hstored, hothers⟩ := State.readByte_storeBlock hs (blockCount_le x)
  refine ⟨_, rfl, fun r hr => ?stored, s.storeBlock_eq _, fun a ha => ?others⟩
  case stored => rw [hstored _ (Nat.lt_succ_of_le hr), BitVec.ofNat_toNat, BitVec.setWidth_eq]
  case others => exact hothers a fun k hk h => ha ⟨k, Nat.le_of_lt_succ hk, h⟩

theorem State.onlyV_loadBlock (s : State) (n : Nat) : OnlyV s (s.loadBlock n) :=
  ⟨s.loadBlock_eq n, fun a => by rw [State.loadBlock_eq]; rfl⟩

/-- Settles O37: the meaning is a block load of x + 1 registers. -/
theorem blockLoadReadsRegisters : Obligations.BlockLoadReadsRegisters := by
  intro x s
  have hread := s.readV_loadBlock (blockCount_le x)
  refine ⟨_, rfl, fun r hr => ?loaded, fun r hr => ?above, s.onlyV_loadBlock _⟩
  case loaded => exact (hread r).trans (if_pos (Nat.lt_succ_of_le hr))
  case above => exact (hread r).trans (if_neg (Nat.not_lt_of_le hr))

end Sys2Proof.Machine

/-! SUPPORT. The display (R108 to R111): CLS, where a pixel is placed, and a draw as the flips of the pixels its sprite
covers, each of them once. -/

namespace Sys2Proof.Machine

/-- Settles O38: a cleared framebuffer has every pixel off, and marking the draw leaves it so. -/
theorem clsClearsEveryPixel : Obligations.ClsClearsEveryPixel := fun s =>
  ⟨_, rfl, fun q _ => s.pixel_clearFb q, rfl, rfl, fun _ => rfl⟩

/-! ## Where a pixel is placed (R110) -/

section
variable {p : Params} (px py : Nat)

theorem place_coordinate_wrap (haddr : p.drawAddr = .coordinate) (hwrap : p.wrap = true) :
    place p px py = some (py % 32 * 64 + px % 64) := by
  simp only [place, haddr, hwrap, if_true]

theorem place_coordinate_clip (haddr : p.drawAddr = .coordinate) (hwrap : p.wrap = false) :
    place p px py = if px ≥ 64 ∨ py ≥ 32 then none else some (py * 64 + px) := by
  simp only [place, haddr, hwrap, Bool.false_eq_true, if_false]

theorem place_linear_wrap (haddr : p.drawAddr = .linear) (hwrap : p.wrap = true) :
    place p px py = some ((py * 64 + px) % 2048) := by
  simp only [place, haddr, hwrap, if_true]

theorem place_linear_clip (haddr : p.drawAddr = .linear) (hwrap : p.wrap = false) :
    place p px py = if py * 64 + px ≥ 2048 then none else some (py * 64 + px) := by
  simp only [place, haddr, hwrap, Bool.false_eq_true, if_false]

end

/-- Settles O39: an equation of `place` for each pair of values. -/
theorem placeFollowsRule : Obligations.PlaceFollowsRule := fun _ px py =>
  ⟨place_coordinate_wrap px py, place_coordinate_clip px py, place_linear_wrap px py, place_linear_clip px py⟩

/-- The rows an unbounded column runs on by: one for each 64 columns under `linear`, none under `coordinate` (R110). -/
def rowCarry (p : Params) (px : Nat) : Nat :=
  match p.drawAddr with
  | .coordinate => 0
  | .linear => px / 64

/-- Whatever the policy, a placed pixel stands in column px mod 64 and, but for the carry, in row py mod 32. -/
theorem column_row_of_place {p : Params} {px py t : Nat} (h : place p px py = some t) :
    t % 64 = px % 64 ∧ t / 64 = (py + rowCarry p px) % 32 := by
  cases haddr : p.drawAddr <;> cases hwrap : p.wrap <;> simp only [rowCarry, haddr]
  case coordinate.true =>
    rw [place_coordinate_wrap px py haddr hwrap, Option.some_inj] at h
    omega
  case coordinate.false =>
    rw [place_coordinate_clip px py haddr hwrap, Option.ite_none_left_eq_some, Option.some_inj] at h
    omega
  case linear.true =>
    rw [place_linear_wrap px py haddr hwrap, Option.some_inj] at h
    omega
  case linear.false =>
    rw [place_linear_clip px py haddr hwrap, Option.ite_none_left_eq_some, Option.some_inj] at h
    omega

/-- R111's derivation: two bits of one sprite, which has at most 15 rows of 8 columns, do not land on one pixel. -/
theorem place_sprite_inj {p : Params} {cx cy row row' col col' t : Nat} (hrow : row < 16) (hrow' : row' < 16)
    (hcol : col < 8) (hcol' : col' < 8) (h : place p (cx + col) (cy + row) = some t)
    (h' : place p (cx + col') (cy + row') = some t) : row = row' ∧ col = col' := by
  obtain ⟨hc, hr⟩ := column_row_of_place h
  obtain ⟨hc', hr'⟩ := column_row_of_place h'
  obtain rfl : col = col' := by omega
  exact ⟨by omega, rfl⟩

/-! ## The pixels a sprite covers (R109, R111) -/

/-- One flip of pixel `t`, its old value put into the flag (R109). -/
def flipPixel (d : (Nat → Bool) × Nat) (t : Nat) : (Nat → Bool) × Nat :=
  (fun q => if q = t then !d.1 q else d.1 q, if d.1 t then 1 else d.2)

theorem flipPixel_of_ne {q t : Nat} (h : q ≠ t) (d : (Nat → Bool) × Nat) : (flipPixel d t).1 q = d.1 q := if_neg h

section
variable {l : List Nat} (hl : l.Nodup) (d : (Nat → Bool) × Nat)
include hl

/-- Flips of distinct pixels invert each of them and no other. -/
theorem foldl_flipPixel_fst (q : Nat) : (l.foldl flipPixel d).1 q = if q ∈ l then !d.1 q else d.1 q := by
  induction l generalizing d with
  | nil => rfl
  | cons t l ih =>
    obtain ⟨ht, hl⟩ := List.nodup_cons.mp hl
    rw [List.foldl_cons, ih hl]
    by_cases hq : q = t
    · subst hq; simp [flipPixel, ht]
    · simp [flipPixel, hq]

/-- Flips of distinct pixels find one on exactly if it was on at the start. -/
theorem foldl_flipPixel_snd : (l.foldl flipPixel d).2 = if ∃ q ∈ l, d.1 q = true then 1 else d.2 := by
  induction l generalizing d with
  | nil => simp
  | cons t l ih =>
    obtain ⟨ht, hl⟩ := List.nodup_cons.mp hl
    have hrest : (∃ q ∈ l, (flipPixel d t).1 q = true) ↔ ∃ q ∈ l, d.1 q = true :=
      exists_congr fun q => and_congr_right fun hq => by rw [flipPixel_of_ne (ne_of_mem_of_not_mem hq ht)]
    rw [List.foldl_cons, ih hl]
    simp only [hrest, List.exists_mem_cons_iff]
    by_cases hon : d.1 t = true <;> simp [flipPixel, hon]

end

section
variable (s : State) (x y : Reg)

/-- Where the sprite's bit at a row and column lands, if it is set and not skipped (R109, R110). -/
def spriteTarget (rc : Nat × Nat) : Option Nat :=
  if (s.readByte (s.memAddr rc.1)).getLsbD (7 - rc.2) then
    place s.params ((s.readV x).toNat + rc.2) ((s.readV y).toNat + rc.1)
  else none

/-- The pixels a sprite of `n` rows covers, in the order the loops visit them. -/
def spritePixels (n : Nat) : List Nat := (spriteOrder n).filterMap (spriteTarget s x y)

theorem spriteTarget_eq_some {rc : Nat × Nat} {t : Nat} :
    spriteTarget s x y rc = some t ↔
      (s.readByte (s.memAddr rc.1)).getLsbD (7 - rc.2) = true ∧
        place s.params ((s.readV x).toNat + rc.2) ((s.readV y).toNat + rc.1) = some t :=
  Option.ite_none_right_eq_some

/-- The loops visit each row below `n` and each of the 8 columns. -/
theorem mem_spriteOrder {n : Nat} {rc : Nat × Nat} : rc ∈ spriteOrder n ↔ rc.1 < n ∧ rc.2 < 8 := by
  rw [← List.mem_range (n := 8), ← List.mem_range (n := n)]
  exact List.mem_product

/-- The loops visit no row and column twice. -/
theorem nodup_spriteOrder (n : Nat) : (spriteOrder n).Nodup := List.nodup_range.product List.nodup_range

theorem mem_spritePixels {n : Nibble} {q : Nat} : q ∈ spritePixels s x y n.toNat ↔ SpriteCovers s x y n q := by
  simp only [spritePixels, List.mem_filterMap, spriteTarget_eq_some, mem_spriteOrder, SpriteCovers, Prod.exists,
    and_assoc, exists_and_left]

theorem nodup_spritePixels (n : Nibble) : (spritePixels s x y n.toNat).Nodup := by
  refine List.pairwise_filterMap.mpr ((nodup_spriteOrder n.toNat).imp_of_mem ?_)
  rintro rc rc' hrc hrc' hne t ht _ ht' rfl
  obtain ⟨hrow, hcol⟩ := mem_spriteOrder.mp hrc
  obtain ⟨hrow', hcol'⟩ := mem_spriteOrder.mp hrc'
  obtain ⟨-, hplace⟩ := (spriteTarget_eq_some s x y).mp ht
  obtain ⟨-, hplace'⟩ := (spriteTarget_eq_some s x y).mp ht'
  exact hne (Prod.ext_iff.mpr (place_sprite_inj (hrow.trans n.isLt) (hrow'.trans n.isLt) hcol hcol' hplace hplace'))

end

section
variable {s : State} {x y : Reg} (hvf : (x ≠ 0xF#4 ∧ y ≠ 0xF#4) ∨ s.params.vfOrder = .snapshot)
include hvf

/-- Where the flag is no coordinate, a visit is a flip of the bit's target (R109). -/
theorem spriteVisit_eq (d : (Nat → Bool) × Nat) (rc : Nat × Nat) :
    spriteVisit s x y d rc = (spriteTarget s x y rc).elim d (flipPixel d) := by
  have hx : ¬ (x = 0xF#4 ∧ s.params.vfOrder = .sequential) := by grind
  have hy : ¬ (y = 0xF#4 ∧ s.params.vfOrder = .sequential) := by grind
  simp only [spriteVisit, spriteTarget, if_neg hx, if_neg hy]
  split
  · cases place s.params ((s.readV x).toNat + rc.2) ((s.readV y).toNat + rc.1) <;> rfl
  · rfl

/-- The visits of a sprite are the flips of the pixels it covers. -/
theorem foldl_spriteVisit (n : Nat) (d : (Nat → Bool) × Nat) :
    (spriteOrder n).foldl (spriteVisit s x y) d = (spritePixels s x y n).foldl flipPixel d := by
  rw [spritePixels, List.foldl_filterMap]
  congr 1
  funext d rc
  rw [spriteVisit_eq hvf]
  cases spriteTarget s x y rc <;> rfl

end

/-- Settles O41: the visits flip the covered pixels, which are distinct. -/
theorem drwFlipsCoveredPixels : Obligations.DrwFlipsCoveredPixels := by
  intro x y n s t hvf h
  obtain ⟨t', ht', ⟨hpixel, hflag⟩, -⟩ := drwVisitsSpriteInOrder x y n s
  obtain rfl : t' = t := Host.Outcome.next.inj (ht'.symm.trans h)
  simp only [foldl_spriteVisit hvf, foldl_flipPixel_fst (nodup_spritePixels s x y n),
    foldl_flipPixel_snd (nodup_spritePixels s x y n)] at hpixel hflag
  simp only [← mem_spritePixels]
  refine ⟨fun q hq => ⟨fun hc => ?covered, fun hc => ?uncovered⟩, fun hon => ?collision, fun hoff => ?noCollision⟩
  case covered => rw [hpixel q hq, if_pos hc]
  case uncovered => rw [hpixel q hq, if_neg hc]
  case collision => exact BitVec.eq_of_toNat_eq (hflag.trans (if_pos hon))
  case noCollision =>
    exact BitVec.eq_of_toNat_eq (hflag.trans (if_neg fun ⟨q, hc, hon⟩ => by simp [hoff q hc] at hon))

theorem SpriteCovers.lt {s : State} {x y : Reg} {n : Nibble} {q : Nat} (hc : SpriteCovers s x y n q) : q < 2048 := by
  obtain ⟨_, _, _, _, -, hplace⟩ := hc
  exact place_lt hplace

/-- With VF no operand, a draw leaves every element that says where its sprite lands: Vx, Vy, I, RAM, the
parameters. -/
theorem spriteCovers_exec_drw {x y : Reg} {n : Nibble} {s t : State} (hx : x ≠ 0xF#4) (hy : y ≠ 0xF#4)
    (h : exec (.drw x y n) s = .next t) (q : Nat) : SpriteCovers t x y n q ↔ SpriteCovers s x y n q := by
  have hparams : t.params = s.params := exec_keeps h rfl fun _ => rfl
  have haddr (k : Nat) : t.memAddr k = s.memAddr k := exec_keeps (piece := (·.memAddr k)) h rfl fun _ => rfl
  have hbyte (a : Addr) : t.readByte a = s.readByte a := exec_keeps (piece := (·.readByte a)) h rfl fun _ => rfl
  simp only [SpriteCovers, hparams, haddr, hbyte, readV_of_exec h hx, readV_of_exec h hy]

/-- Settles O42: the second draw covers the pixels of the first, and finds on what the first found off. -/
theorem drawingTwiceRestores : Obligations.DrawingTwiceRestores := by
  intro x y n s t u hx hy hst htu
  obtain ⟨hpixel, -, -⟩ := drwFlipsCoveredPixels x y n s t (.inl ⟨hx, hy⟩) hst
  obtain ⟨hpixel', hcollision, -⟩ := drwFlipsCoveredPixels x y n t u (.inl ⟨hx, hy⟩) htu
  have hcovers := spriteCovers_exec_drw hx hy hst
  refine ⟨fun q hq => ?restored, fun ⟨q, hc, hoff⟩ => hcollision ⟨q, (hcovers q).mpr hc, ?on⟩⟩
  case restored =>
    by_cases hc : SpriteCovers s x y n q
    · rw [(hpixel' q hq).1 ((hcovers q).mpr hc), (hpixel q hq).1 hc, Bool.not_not]
    · rw [(hpixel' q hq).2 (mt (hcovers q).mp hc), (hpixel q hq).2 hc]
  case on => rw [(hpixel q hc.lt).1 hc, hoff, Bool.not_false]

end Sys2Proof.Machine

/-! SUPPORT. The timer transfers (R112 to R114) and the key wait (R115): the lowest pressed key, and what Fx0A answers
with and without one. -/

namespace Sys2Proof.Machine

/-! ## The lowest pressed key (R115) -/

theorem State.lowestKey_eq_some {s : State} {k : Nat} :
    s.lowestKey = some k ↔ k < 16 ∧ s.key k = true ∧ ∀ j < k, s.key j = false := by
  simp only [State.lowestKey, List.find?_range_eq_some, List.mem_range, Bool.not_eq_true', and_left_comm]

theorem State.lowestKey_eq_none {s : State} : s.lowestKey = none ↔ ∀ k < 16, s.key k = false := by
  simp only [State.lowestKey, List.find?_range_eq_none, Bool.not_eq_true']

/-! ## Key wait -/

/-- Settles O44: `nop` leaves the state, a lowest key is one write of Vx, and no key is a write of PC. -/
theorem keyWait : Obligations.KeyWait := by
  refine fun x s => ⟨fun hnop => execLdVxK_nop hnop x, ?key, ?noKey⟩
  case key =>
    intro hwait k hk hpressed hlower
    have hlowest := State.lowestKey_eq_some.mpr ⟨hk, hpressed, hlower⟩
    exact setsV_of_exec (execLdVxK_key hwait hlowest x) (Nat.mod_eq_of_lt (by omega))
  case noKey =>
    intro hwait hreleased
    have hnone := State.lowestKey_eq_none.mpr hreleased
    exact ⟨_, execLdVxK_noKey hwait hnone x, BitVec.sub_add_cancel .., s.onlyPc_setPc _⟩

/-! ## Timer transfers (R112 to R114) -/

/-- Settles O43: the meanings are one write of Vx, of DT and of ST. -/
theorem timerTransfers : Obligations.TimerTransfers := fun _ s =>
  ⟨setsV_of_exec rfl rfl, ⟨_, rfl, s.setDt_dt _, rfl, s.setDt_readByte _⟩,
    _, rfl, s.setSt_st _, rfl, s.setSt_readByte _⟩

end Sys2Proof.Machine

/-! SUPPORT. Which condition of R116's table an instruction's fault comes from, and the notifications of a tick
(R130). -/

namespace Sys2Proof.Machine

/-- Settles O4: a running core's step answers by its instruction or by the fetch alone. -/
theorem everyStepAnswersNext : Obligations.EveryStepAnswersNext := step_answers_next

/-! ## The conditions of the faults (R116) -/

section
variable {s : State} {c : FaultCode}

/-- An answer that runs on is no fault. -/
theorem not_fault_of_running {r : Result} {u : State} (hr : r = .next u) (hu : u.halted = false) :
    r ≠ .next (s.raiseFault c) := by
  intro h
  obtain rfl := Host.Outcome.next.inj (hr.symm.trans h)
  exact Bool.false_ne_true hu.symm

/-- The code of a fault is the one its arm raises. -/
theorem code_of_fault {r : Result} {d : FaultCode} (hr : r = .next (s.raiseFault d))
    (h : r = .next (s.raiseFault c)) : c = d :=
  congrArg State.faultCode (Host.Outcome.next.inj (h.symm.trans hr))

theorem State.halted_skipIf (s : State) (b : Bool) : (s.skipIf b).halted = s.halted := by
  rw [s.skipIf_eq b]

theorem keyIndex_eq_none {m : KeyIndexMode} {b : Byte} (h : keyIndex m b = none) : 15 < b.toNat ∧ m = .fault := by
  by_contra hnot
  have hkey : b.toNat ≤ 15 ∨ m = .lowNibble := by
    cases m with
    | fault => exact .inl (Nat.le_of_not_lt fun hbig => hnot ⟨hbig, rfl⟩)
    | lowNibble => exact .inr rfl
  rw [keyIndex_eq_mod hkey] at h
  nomatch h

theorem call_fault_condition {a : Addr} (hrun : s.halted = false) (h : exec (.call a) s = .next (s.raiseFault c)) :
    16 ≤ s.sp.toNat ∧ c = .stackOverflow := by
  rcases Nat.lt_or_ge s.sp.toNat 16 with hroom | hfull
  · exact absurd h (not_fault_of_running (execCall_push hroom a) hrun)
  · exact ⟨hfull, code_of_fault (execCall_full hfull a) h⟩

theorem ret_fault_condition (hrun : s.halted = false) (h : exec .ret s = .next (s.raiseFault c)) :
    16 < s.sp.toNat ∧ c = .stackOverflow ∨ s.sp.toNat = 0 ∧ c = .stackUnderflow := by
  rcases Nat.eq_zero_or_pos s.sp.toNat with hempty | hpos
  · exact .inr ⟨hempty, code_of_fault (execRet_empty hempty) h⟩
  · rcases Nat.lt_or_ge 16 s.sp.toNat with hover | hlegal
    · exact .inl ⟨hover, code_of_fault (execRet_overfull hover) h⟩
    · exact absurd h (not_fault_of_running (execRet_pop hpos hlegal) hrun)

/-- SKP and SKNP fault alike: Vx names no key. -/
theorem keySkip_fault_condition {i : Instr} {x : Reg} (hi : i = .skp x ∨ i = .sknp x) (hrun : s.halted = false)
    (h : exec i s = .next (s.raiseFault c)) :
    15 < (s.readV x).toNat ∧ s.params.keyIndex = .fault ∧ c = .keyIndex := by
  cases hkey : keyIndex s.params.keyIndex (s.readV x) with
  | none =>
    obtain ⟨hbig, hmode⟩ := keyIndex_eq_none hkey
    refine ⟨hbig, hmode, ?_⟩
    obtain rfl | rfl := hi
    · exact code_of_fault (execSkp_noKey hkey) h
    · exact code_of_fault (execSknp_noKey hkey) h
  | some k =>
    have hskip (b : Bool) : (s.skipIf b).halted = false := (s.halted_skipIf b).trans hrun
    obtain rfl | rfl := hi
    · exact absurd h (not_fault_of_running (execSkp_key hkey) (hskip _))
    · exact absurd h (not_fault_of_running (execSknp_key hkey) (hskip _))

end

/-- Settles O18: an answer that halts a running core is a fault of one of the four instructions that have one. -/
theorem faultsAriseOnlyAsListed : Obligations.FaultsAriseOnlyAsListed := by
  intro i s t hrun h hhalt
  obtain ⟨hsame, -⟩ | ⟨hi, c, -, rfl⟩ := faultStatus_of_exec h
  · exact absurd (hhalt.symm.trans (hsame.trans hrun)) Bool.noConfusion
  · obtain ⟨a, rfl⟩ | rfl | ⟨x, rfl⟩ | ⟨x, rfl⟩ := hi
    · exact .inl ⟨⟨a, rfl⟩, call_fault_condition hrun h⟩
    · obtain hover | hempty := ret_fault_condition hrun h
      · exact .inr (.inl ⟨rfl, hover⟩)
      · exact .inr (.inr (.inl ⟨rfl, hempty⟩))
    · exact .inr (.inr (.inr ⟨x, .inl rfl, keySkip_fault_condition (.inl rfl) hrun h⟩))
    · exact .inr (.inr (.inr ⟨x, .inr rfl, keySkip_fault_condition (.inr rfl) hrun h⟩))

/-! ## The end of a tick (R130) -/

/-- A batch leaves the sound latch to `Notify` (R31). -/
theorem soundLatch_of_batch {s u : State} {budget : Nat} (h : batch budget s = .next u) :
    u.soundLatch = s.soundLatch :=
  batch_induction (P := fun v => v.soundLatch = s.soundLatch)
    (fun hstep => (congrArg HostState.soundLatch (hostState_of_step hstep)).trans) h rfl

/-- Settles O47: the events are those of the state the batch and the timers leave, whose latch is still the old one. -/
theorem tickRaisesNotifications : Obligations.TickRaisesNotifications := by
  intro s t notes h
  obtain ⟨u, hbatch, rfl, rfl⟩ := tick_cases h
  have hactive : u.tickTimers.soundActive = decide (0 < u.tickTimers.st.toNat) := u.tickTimers.soundActive_eq
  have hlatch : u.soundLatch = s.soundLatch := soundLatch_of_batch (s := s.clearDraw) hbatch
  refine ⟨hactive, u.tickTimers.notifications_eq.trans ?_⟩
  rw [hactive, ← hlatch]
  rfl

end Sys2Proof.Machine

/-! SUPPORT. The host's operations: what RAM, keys and stack read as after the resets (R141 to R143), LoadState (R135,
R136) and SetKey (R125), and what a run is made of (R149). -/

namespace Sys2Proof.Machine

/-! ## What is left at its reset value (R33) -/

theorem unlistedByte_of_lt {font : Font} {a : Nat} (h : a < 80) : unlistedByte font a = font[a] := dif_pos h

theorem unlistedByte_of_le {font : Font} {a : Nat} (h : 80 ≤ a) : unlistedByte font a = 0#8 := dif_neg h.not_gt

/-- An entry of a vector of equal values, by the total reading of the keys and the stack. -/
theorem getD_replicate {α : Type} (n k : Nat) (a : α) : ((Vector.replicate n a)[k]?).getD a = a := by
  rw [Vector.getElem?_replicate]
  split <;> rfl

theorem State.readV_of_replicate {s : State} (h : s.v = Vector.replicate 16 0#8) (r : Reg) : s.readV r = 0#8 := by
  simp only [State.readV, h, Vector.getElem_replicate]

theorem State.key_of_replicate {s : State} (h : s.keys = Vector.replicate 16 false) (k : Nat) : s.key k = false := by
  rw [State.key, h, getD_replicate]

theorem State.readStack_of_replicate {s : State} (h : s.stack = Vector.replicate 16 0#12) (k : Nat) :
    s.readStack k = 0#12 := by
  rw [State.readStack, h, getD_replicate]

/-! ## The resets (R141 to R143) -/

/-- Settles O48: nothing is listed in the reset memory, and every other element is written out in `State.initial`. -/
theorem initializeGivesResetValues : Obligations.InitializeGivesResetValues := by
  intro s
  refine ⟨State.initial s.params, rfl, State.readV_of_replicate rfl, rfl, rfl, rfl, rfl, rfl,
    fun k _ => State.readStack_of_replicate rfl k, fun _ h => unlistedByte_of_lt h, fun _ h => unlistedByte_of_le h,
    fun q _ => Framebuffer.pixel_clear q, rfl, fun k _ => State.key_of_replicate rfl k, rfl, rfl, rfl, rfl, rfl, rfl,
    rfl, rfl, rfl⟩

theorem State.readByte_withProgram (s : State) (prog : List Byte) (a : Addr) :
    (s.withProgram prog).readByte a =
      if 0x200 ≤ a.toNat then prog[a.toNat - 0x200]?.getD (unlistedByte s.params.font a.toNat)
      else unlistedByte s.params.font a.toNat :=
  Memory.read_image

/-- LoadProgram of a whole buffer or of the first part of a longer one (R142). -/
theorem perform_loadProgram_buffer {bytes : List Byte} {length : Nat} (h0 : 0 < length) (h : length ≤ 3584)
    (hbuffer : length ≤ bytes.length) (s : State) :
    perform (.loadProgram bytes length) s =
      .next { state := s.withProgram (bytes.take length), reply := .bool true, notes := [] } := by
  have hlegal : ¬ (length = 0 ∨ length > 3584) := by omega
  simp only [perform, loadProgram, if_neg hlegal, if_neg hbuffer.not_gt, quietly]

theorem toNat_programAddr {j : Nat} (h : j < 3584) : (BitVec.ofNat 12 (0x200 + j)).toNat = 0x200 + j :=
  Nat.mod_eq_of_lt (by omega)

/-- Settles O49: RAM is the program's image over the reset contents, the rest what `clearCore` leaves. -/
theorem loadProgramInstallsOrRejects : Obligations.LoadProgramInstallsOrRejects := by
  intro s bytes length
  refine ⟨fun h => perform_loadProgram_illegal h bytes s, fun h0 h hbuffer => ?_⟩
  refine ⟨_, perform_loadProgram_buffer h0 h hbuffer s, ?font, ?program, ?zero, rfl⟩
  case font =>
    intro a ha
    rw [State.readByte_withProgram, if_neg (by omega), unlistedByte_of_lt ha]
  case program =>
    intro j hj
    rw [State.readByte_withProgram, toNat_programAddr (by omega), if_pos (by omega), unlistedByte_of_le (by omega),
      Nat.add_sub_cancel_left, List.getElem?_take_of_lt hj]
  case zero =>
    intro a ha hout
    rw [State.readByte_withProgram, unlistedByte_of_le ha]
    split
    next habove =>
      have hend : (bytes.take length)[a.toNat - 0x200]? = none :=
        List.getElem?_eq_none ((List.length_take_le ..).trans (by omega))
      rw [hend, Option.getD_none]
    next => rfl

theorem State.readByte_partialReset (s : State) (a : Addr) :
    s.partialReset.readByte a = if a.toNat < 0x050 then s.readByte a else unlistedByte s.params.font a.toNat :=
  Memory.read_below

/-- Settles O50: RAM is cut off at the end of the font region, the rest what `clearCore` leaves. -/
theorem partialResetKeepsFontRegion : Obligations.PartialResetKeepsFontRegion := by
  refine fun s => ⟨s.partialReset, rfl, fun a ha => ?_, fun a ha => ?_, rfl⟩
  · rw [State.readByte_partialReset, if_pos ha]
  · rw [State.readByte_partialReset, if_neg ha.not_gt, unlistedByte_of_le ha]

/-! ## Keys, configuration and queries (R125 to R129) -/

theorem State.setKey_of_le {k : Nat} (h : k ≤ 15) (s : State) (pressed : Bool) :
    s.setKey k pressed = { s with keys := s.keys.setIfInBounds k pressed } := if_pos h

theorem State.setKey_of_gt {k : Nat} (h : 15 < k) (s : State) (pressed : Bool) : s.setKey k pressed = s :=
  if_neg h.not_ge

theorem State.key_setKey {k : Nat} (h : k ≤ 15) (s : State) (pressed : Bool) (j : Nat) :
    (s.setKey k pressed).key j = if j = k then pressed else s.key j := by
  rw [s.setKey_of_le h, State.key, State.key]
  simp only [Vector.getElem?_setIfInBounds]
  by_cases hj : k = j
  · subst hj
    rw [if_pos rfl, if_pos (by omega), if_pos rfl, Option.getD_some]
  · rw [if_neg hj, if_neg (Ne.symm hj)]

/-- Settles O51: each operation is one write of the element it names, but for a key that does not exist. -/
theorem keysAndConfigurationAreSet : Obligations.KeysAndConfigurationAreSet := by
  refine fun s k n b => ⟨fun hk => ?key, fun hk => ?noKey, rfl,
    ⟨s.setClockRate n, rfl, BitVec.toNat_ofNat .., rfl⟩, rfl⟩
  case key =>
    refine ⟨s.setKey k b, rfl, ?_, fun j _ hj => ?_, ?_⟩
    · rw [State.key_setKey hk, if_pos rfl]
    · rw [State.key_setKey hk, if_neg hj]
    · rw [s.setKey_of_le hk]
  case noKey => rw [perform, s.setKey_of_gt hk, quietly]

/-- Settles O52: the queries answer a reading of the state they leave, and GetPixel checks both coordinates first. -/
theorem queriesAnswerAndChangeNothing : Obligations.QueriesAnswerAndChangeNothing := by
  refine fun s x y => ⟨rfl, ?active, fun hx hy => if_pos ⟨hx, hy⟩, fun hout => if_neg (by omega)⟩
  case active => rw [perform, s.soundActive_eq, quietly]

/-! ## The save state (R133 to R136) -/

/-- After LoadState, RAM is the core's own below 0x200 and the record's from there on. -/
theorem State.readByte_loadState (s : State) (r : SaveRecord) (a : Addr) :
    (s.loadState r).readByte a = if a.toNat < 0x200 then s.readByte a else r.ram[a.toNat - 0x200]'(by omega) := by
  have hfits : 0x200 + r.ram.toList.length ≤ 4096 := by rw [Vector.length_toList]
  refine (Memory.read_below_append (Memory.wfFrom_image hfits)).trans ?_
  split
  next => rfl
  next habove =>
    have hentry : a.toNat - 0x200 < r.ram.toList.length := by rw [Vector.length_toList]; omega
    rw [Memory.read_image, if_pos (by omega), List.getElem?_eq_getElem hentry, Option.getD_some, Vector.getElem_toList]

theorem State.toNat_readStack_loadState (s : State) (r : SaveRecord) {k : Nat} (h : k < 16) :
    ((s.loadState r).readStack k).toNat = r.stack[k] % 4096 := by
  simp [State.readStack, State.loadState, h]

/-- Settles O53: the 12-bit fields are built from the record's numbers, RAM is as `readByte_loadState` has it. -/
theorem loadStateTakesTheRecord : Obligations.LoadStateTakesTheRecord := by
  refine fun s r => ⟨s.loadState r, rfl, BitVec.toNat_ofNat .., BitVec.toNat_ofNat .., BitVec.toNat_ofNat ..,
    fun k hk => s.toNat_readStack_loadState r hk, fun a ha => ?low, fun j hj => ?high,
    fun k _ => State.key_of_replicate rfl k, rfl⟩
  case low => rw [State.readByte_loadState, if_pos ha]
  case high =>
    have haddr := toNat_programAddr hj
    simp [State.readByte_loadState, haddr]

theorem State.saveState_ram (s : State) (a : Addr) (h : 0x200 ≤ a.toNat) :
    s.saveState.ram[a.toNat - 0x200]'(by omega) = s.readByte a := by
  simp only [State.saveState, Vector.getElem_ofFn, Nat.add_sub_cancel' h, State.readByte]

/-- The stack entries come back from the record's numbers (R134, R135). -/
theorem map_ofNat_map_toNat (stack : Vector Addr 16) : (stack.map (·.toNat)).map (BitVec.ofNat 12 ·) = stack := by
  simp only [Vector.map_map, Function.comp_def, BitVec.ofNat_toNat, BitVec.setWidth_eq, Vector.map_id']

/-- Loading what a state saved takes over every field of the record (R136). -/
theorem State.loadState_saveState (s u : State) :
    u.loadState s.saveState = { u with
      seed := s.seed, v := s.v, i := s.i, pc := s.pc, sp := s.sp, dt := s.dt, st := s.st, stack := s.stack,
      mem := (u.loadState s.saveState).mem, fb := s.fb, keys := (u.loadState s.saveState).keys, halted := false,
      faultCode := .none, faultPc := 0#12 } := by
  simp only [State.loadState, State.saveState, State.clearFault, map_ofNat_map_toNat, BitVec.ofNat_toNat,
    BitVec.setWidth_eq]

/-- Settles O54: RAM comes from the loading core below 0x200 and from the record above, every other field from the
record. -/
theorem saveThenLoadReproduces : Obligations.SaveThenLoadReproduces := by
  refine fun s u hlow => ⟨s.saveState, u.loadState s.saveState, rfl, rfl, fun a => ?ram,
    fun k _ => State.key_of_replicate rfl k, s.loadState_saveState u⟩
  case ram =>
    rw [State.readByte_loadState]
    split
    next ha => exact hlow a ha
    next ha => exact s.saveState_ram a (Nat.le_of_not_lt ha)

/-! ## Runs (R149) -/

/-- The operations of a run: SetKey, the configuration, the queries, Tick and the debug readout. -/
theorem HostOp.inRun_iff {o : HostOp} :
    o.inRun = true ↔
      (∃ k b, o = .setKey k b) ∨ o = .getClockRate ∨ (∃ n, o = .setClockRate n) ∨ (∃ b, o = .setVsync b) ∨
        o = .shouldPresentFrame ∨ o = .isSoundActive ∨ (∃ x y, o = .getPixel x y) ∨ o = .tick ∨ o = .readState := by
  cases o <;> simp [HostOp.inRun]

theorem hostRun_of_launch {p : Params} {prog : List Byte} {ops : List HostOp} {s : State}
    (hlaunch : launch p prog = some s) (hops : ∀ o ∈ ops, o.inRun = true) :
    hostRun p prog ops = some (performAll ops s) :=
  hostRun_eq_some_iff.2 ⟨hops, s, hlaunch, rfl⟩

theorem hostRun_of_no_launch {p : Params} {prog : List Byte} (hlaunch : launch p prog = none) (ops : List HostOp) :
    hostRun p prog ops = none := by
  rw [hostRun, hlaunch, Option.map_none, ite_self]

theorem hostRun_of_not_inRun {ops : List HostOp} (hops : ¬ ∀ o ∈ ops, o.inRun = true) (p : Params)
    (prog : List Byte) : hostRun p prog ops = none :=
  if_neg (List.all_eq_true.not.2 hops)

/-- Settles O56: the launch is the two operations, and it and the sequence each decide whether there is a run. -/
theorem runIsALaunchThenOperations : Obligations.RunIsALaunchThenOperations := by
  intro s prog ops
  simp only [← HostOp.inRun_iff]
  refine ⟨fun h0 h hops => ?run, fun h => ?length, fun hops => ?operation⟩
  case run =>
    exact ⟨State.initial s.params, _, rfl, perform_loadProgram_legal h0 h _,
      hostRun_of_launch (launch_legal h0 h _) hops⟩
  case length => exact hostRun_of_no_launch (launch_illegal h _) ops
  case operation => exact hostRun_of_not_inRun hops s.params prog

end Sys2Proof.Machine
